-- ==== Sys2Proof/Word.lean ====
section
/-! DEFINITION. The word types of the engine and the two readings of a word (00_scope.md R9, R10). -/

namespace Sys2Proof

/-- A register value, an unsigned 64-bit integer (R10, R31). -/
abbrev Word := BitVec 64

/-- A byte of data memory (R60). -/
abbrev Byte := BitVec 8

/-- A register index as the DIR holds it: an 8-bit field (R110). -/
abbrev RegIdx := BitVec 8

/-- The 96 bits of a decoded instruction record (R110). -/
abbrev Dir := BitVec 96

/-- `u64(z)`: the integer `z` modulo 2^64 (R10). -/
abbrev u64 (z : Int) : Word := BitVec.ofInt 64 z

/-- `s64(v)`: the two's-complement reading of a word (R10). -/
abbrev s64 (v : Word) : Int := v.toInt

end Sys2Proof
end

