-- ==== Sys2Proof/Machine/Flags.lean ====
section
/-! DEFINITION. The engine has no status flags (10_state.md R41): an instruction that tests compares two words and uses
the answer at once. The comparisons, and the value a set-if instruction writes. -/

namespace Sys2Proof.Machine

/-- Equality of all 64 bits (R243). -/
def isEqual (a b : Word) : Bool := a == b

/-- `<s` (R10, R179). -/
def lessSigned (a b : Word) : Bool := decide (s64 a < s64 b)

/-- `<u` (R10, R180). -/
def lessUnsigned (a b : Word) : Bool := decide (a.toNat < b.toNat)

/-- 1 if the comparison holds, else 0 (R179, R180, R209, R210). -/
def setIf (c : Bool) : Word := if c then 1 else 0

end Sys2Proof.Machine
end

