-- ==== Sys2Proof/Config.lean ====
section
/-! DEFINITION. What an instance of the engine fixes (the parameters of 00_scope.md R8), the quantum port's requests and
answers (46_quantum_dispatch.md R300, R301), and the free values: constants without a body, of which no proof can see
anything (notes/assumptions 2, 3, 14, 15, 25). -/

namespace Sys2Proof

/-- `JUMP_PAST_END`: what a control transfer outside [0, len] does (R146). -/
inductive JumpPastEnd where
  | fault
  | halt
  deriving DecidableEq, Repr

/-- `SHIFT_OVERSIZE`: what a shift amount outside [0, 63] does (R170). `anyValue` is the MODEL's own setting: the
instruction completes and its result is a free value (log 3). -/
inductive ShiftOversize where
  | refuse
  | mask6
  | goSaturate
  | anyValue
  deriving DecidableEq, Repr

/-- `U_IMM_MODE`: what an upper immediate outside the 20-bit range does (R230). `anyValue` is the MODEL's own setting:
the upper immediate is a free multiple of 2^12 (log 3). -/
inductive UImmMode where
  | refuseOutside20Bit
  | wide64
  | anyValue
  deriving DecidableEq, Repr

/-- `JALR_LINK_ORDER`: which value of rs1 a `jalr` with rd = rs1 ≠ x0 uses (R241). `either` is the MODEL's own
setting: one of the two readings, which one being free (log 3). -/
inductive JalrLinkOrder where
  | refuse
  | oldRs1
  | newRs1
  | either
  deriving DecidableEq, Repr

/-- The parameters of one machine instance (R8). `initRegs` lists the construction values of x0, x1, ... (a missing
entry is 0, and entry 0 is never read); `initMem` lists the bytes of data memory that are not 0 at construction.
ADHOC_PC and QPORT are draws and stand below as free values. -/
structure Params where
  nreg : Nat
  memCapacity : Nat
  immMin : Int
  immMax : Int
  jumpPastEnd : JumpPastEnd
  shiftOversize : ShiftOversize
  uImmMode : UImmMode
  jalrLinkOrder : JalrLinkOrder
  initRegs : List Word
  initMem : List Host.Cell
  deriving DecidableEq, Repr

/-- The numeric ranges R8 gives the parameters: NREG is 32 or 128 (D9), MEM_CAPACITY at most 2^32 (D10), and the immediate range
is the default one or a wider one within a signed 64-bit integer (R96). -/
abbrev Params.InRange (p : Params) : Prop :=
  (p.nreg = 32 ∨ p.nreg = 128) ∧ p.memCapacity ≤ 2 ^ 32 ∧ (-(2 ^ 63) ≤ p.immMin ∧ p.immMin ≤ -(2 ^ 31)) ∧
    2 ^ 31 - 1 ≤ p.immMax ∧ p.immMax ≤ 2 ^ 63 - 1

/-- The parameters R8 admits: in their numeric ranges, and each of the three settings in R8's closed set (D17 to D19), which
the MODEL's own `anyValue` and `either` are not (log 2). -/
abbrev Params.Valid (p : Params) : Prop :=
  p.InRange ∧ p.shiftOversize ≠ .anyValue ∧ p.uImmMode ≠ .anyValue ∧ p.jalrLinkOrder ≠ .either

/-- The four operations the engine sends to the quantum port (R300). -/
inductive QOp where
  | qinit
  | qapply
  | qmeasure
  | qentangle
  deriving DecidableEq, Repr

/-- A request to the quantum port: register indices, not values; a field the format does not set is 0 (R300). -/
structure QReq where
  op : QOp
  rd : RegIdx
  rs1 : RegIdx
  rs2 : RegIdx
  imm : Int
  deriving DecidableEq, Repr

/-- The errors the port may answer (R301). The unbound register's index comes with the answer (R320 row 5; log 18). -/
inductive PortFail where
  | uninitializedQuantumRegister (reg : RegIdx)
  | unsupportedControlCount
  | quantumPortFailure
  deriving DecidableEq, Repr

/-- An answer of the port (R301). `other` is any value outside the contract. -/
inductive PortAnswer where
  | done
  | bit (b : Bool)
  | fail (k : PortFail)
  | other (v : Nat)
  deriving DecidableEq, Repr

/-- The three shifts (R176 to R178). -/
inductive ShiftKind where
  | left
  | rightLogical
  | rightArithmetic
  deriving DecidableEq, Repr

/-- Free value: what a shift of a value by an amount outside [0, 63] leaves, under `ShiftOversize.anyValue`. -/
opaque Config.oversizeShift : ShiftKind → Word → Int → Word

/-- Free value: the upper 52 bits of the upper immediate outside the 20-bit range, under `UImmMode.anyValue`. -/
opaque Config.upperImm : Int → BitVec 52

/-- Free value: whether this machine's `jalr` reads rs1 after its link write, under `JalrLinkOrder.either`. -/
opaque Config.jalrReadsNewRs1 : Bool

/-- Free value: the pc the n-th drawn ad-hoc instruction sees (ADHOC_PC, R152). -/
opaque Config.adhocPc : Nat → Word

/-- Free value: the failure the port answers to a request at the n-th draw, or none (QPORT, R301). DESIGN CHOICE
(log 25): each of R301's three failures is admitted for every operation. -/
opaque Config.portFailure : Nat → QReq → Option PortFail

/-- Free value: the bit the port answers to a `qmeasure` at the n-th draw, or none for `Done` (QPORT, R301, R304). -/
opaque Config.measuredBit : Nat → QReq → Option Bool

end Sys2Proof
end

