-- ==== Sys2Proof/Machine/Defaults.lean ====
section
/-! DEFINITION. The parameter values the spec gives as defaults (00_scope.md R8), the values the instance in State.reset has,
and an instance on which every form runs. -/

namespace Sys2Proof

/-- The defaults of R8, letter for letter. INIT_REGS and INIT_MEM have none there ("any (a draw)"); they are all zero
here, the premise of 95_test_vectors.md (DESIGN CHOICE, logs 4 and 5; unsafe). -/
def specDefaults : Params where
  nreg := 32
  memCapacity := 1048576
  immMin := -2147483648
  immMax := 2147483647
  jumpPastEnd := .fault
  shiftOversize := .refuse
  uImmMode := .refuseOutside20Bit
  jalrLinkOrder := .refuse
  initRegs := []
  initMem := []

/-- The parameters of the instance that State.reset builds: the defaults of R8. -/
def resetParams : Params := specDefaults

/-- The defaults of R8, but that a form for which the default is `refuse` runs, with a free value: the MODEL's own settings,
which are not in R8's closed sets (DESIGN CHOICE, logs 2 and 3). -/
def freeParams : Params :=
  { specDefaults with shiftOversize := .anyValue, uImmMode := .anyValue, jalrLinkOrder := .either }

end Sys2Proof
end

