-- ==== Sys2Proof/Syntax.lean ====
section
/-! DEFINITION. The 42 instructions (30_encoding.md R100), each with the operands its format takes (R101), in the order
the line writes them. A register operand is the DIR's index field; an immediate is a mathematical integer (R10). -/

namespace Sys2Proof

/-- One constructor per row of spec/opcode_table.json (R100, R101). -/
inductive Instr where
  -- R-type: op rd, rs1, rs2
  | add (rd rs1 rs2 : RegIdx)
  | sub (rd rs1 rs2 : RegIdx)
  | and (rd rs1 rs2 : RegIdx)
  | or (rd rs1 rs2 : RegIdx)
  | xor (rd rs1 rs2 : RegIdx)
  | sll (rd rs1 rs2 : RegIdx)
  | srl (rd rs1 rs2 : RegIdx)
  | sra (rd rs1 rs2 : RegIdx)
  | slt (rd rs1 rs2 : RegIdx)
  | sltu (rd rs1 rs2 : RegIdx)
  -- I-type: op rd, rs1, imm
  | addi (rd rs1 : RegIdx) (imm : Int)
  | slli (rd rs1 : RegIdx) (imm : Int)
  | srli (rd rs1 : RegIdx) (imm : Int)
  | srai (rd rs1 : RegIdx) (imm : Int)
  | andi (rd rs1 : RegIdx) (imm : Int)
  | ori (rd rs1 : RegIdx) (imm : Int)
  | xori (rd rs1 : RegIdx) (imm : Int)
  | slti (rd rs1 : RegIdx) (imm : Int)
  | sltiu (rd rs1 : RegIdx) (imm : Int)
  -- U-type: op rd, imm
  | lui (rd : RegIdx) (imm : Int)
  | auipc (rd : RegIdx) (imm : Int)
  -- J-type and I-jump
  | jal (rd : RegIdx) (imm : Int)
  | jalr (rd rs1 : RegIdx) (imm : Int)
  -- B-type: op rs1, rs2, imm
  | beq (rs1 rs2 : RegIdx) (imm : Int)
  | bne (rs1 rs2 : RegIdx) (imm : Int)
  | blt (rs1 rs2 : RegIdx) (imm : Int)
  | bge (rs1 rs2 : RegIdx) (imm : Int)
  | bltu (rs1 rs2 : RegIdx) (imm : Int)
  | bgeu (rs1 rs2 : RegIdx) (imm : Int)
  -- Load: op rd, imm(rs1)
  | lw (rd rs1 : RegIdx) (imm : Int)
  | lh (rd rs1 : RegIdx) (imm : Int)
  | lb (rd rs1 : RegIdx) (imm : Int)
  | lwu (rd rs1 : RegIdx) (imm : Int)
  | lhu (rd rs1 : RegIdx) (imm : Int)
  | lbu (rd rs1 : RegIdx) (imm : Int)
  -- Store: op rs2, imm(rs1)
  | sw (rs2 rs1 : RegIdx) (imm : Int)
  | sh (rs2 rs1 : RegIdx) (imm : Int)
  | sb (rs2 rs1 : RegIdx) (imm : Int)
  -- Quantum
  | qinit (rd : RegIdx)
  | qapply (rd rs1 : RegIdx) (imm : Int)
  | qmeasure (rd rs1 : RegIdx)
  | qentangle (rd rs1 rs2 : RegIdx)
  deriving DecidableEq, Repr

end Sys2Proof
end

