-- ==== Sys2Proof/WellFormed.lean ====
section
/-! DEFINITION. Well-formed instructions (30_encoding.md R114): every register index is below NREG and the immediate lies
in [IMM_MIN, IMM_MAX]. (That the fields a format does not set are 0 is a property of the DIR; Decode.lean checks it.) -/

namespace Sys2Proof

/-- The register operands of an instruction, in the order the line writes them (R101). -/
def Instr.regs : Instr → List RegIdx
  | .add rd rs1 rs2 | .sub rd rs1 rs2 | .and rd rs1 rs2 | .or rd rs1 rs2 | .xor rd rs1 rs2 => [rd, rs1, rs2]
  | .sll rd rs1 rs2 | .srl rd rs1 rs2 | .sra rd rs1 rs2 | .slt rd rs1 rs2 | .sltu rd rs1 rs2 => [rd, rs1, rs2]
  | .addi rd rs1 _ | .slli rd rs1 _ | .srli rd rs1 _ | .srai rd rs1 _ | .andi rd rs1 _ => [rd, rs1]
  | .ori rd rs1 _ | .xori rd rs1 _ | .slti rd rs1 _ | .sltiu rd rs1 _ => [rd, rs1]
  | .lui rd _ | .auipc rd _ | .jal rd _ => [rd]
  | .jalr rd rs1 _ => [rd, rs1]
  | .beq rs1 rs2 _ | .bne rs1 rs2 _ | .blt rs1 rs2 _ | .bge rs1 rs2 _ | .bltu rs1 rs2 _ | .bgeu rs1 rs2 _ => [rs1, rs2]
  | .lw rd rs1 _ | .lh rd rs1 _ | .lb rd rs1 _ | .lwu rd rs1 _ | .lhu rd rs1 _ | .lbu rd rs1 _ => [rd, rs1]
  | .sw rs2 rs1 _ | .sh rs2 rs1 _ | .sb rs2 rs1 _ => [rs2, rs1]
  | .qinit rd => [rd]
  | .qapply rd rs1 _ => [rd, rs1]
  | .qmeasure rd rs1 => [rd, rs1]
  | .qentangle rd rs1 rs2 => [rd, rs1, rs2]

/-- The immediate operand of an instruction; none where its format has no immediate (R101). -/
def Instr.immediate : Instr → Option Int
  | .add _ _ _ | .sub _ _ _ | .and _ _ _ | .or _ _ _ | .xor _ _ _ => none
  | .sll _ _ _ | .srl _ _ _ | .sra _ _ _ | .slt _ _ _ | .sltu _ _ _ => none
  | .addi _ _ imm | .slli _ _ imm | .srli _ _ imm | .srai _ _ imm | .andi _ _ imm => some imm
  | .ori _ _ imm | .xori _ _ imm | .slti _ _ imm | .sltiu _ _ imm => some imm
  | .lui _ imm | .auipc _ imm | .jal _ imm => some imm
  | .jalr _ _ imm => some imm
  | .beq _ _ imm | .bne _ _ imm | .blt _ _ imm | .bge _ _ imm | .bltu _ _ imm | .bgeu _ _ imm => some imm
  | .lw _ _ imm | .lh _ _ imm | .lb _ _ imm | .lwu _ _ imm | .lhu _ _ imm | .lbu _ _ imm => some imm
  | .sw _ _ imm | .sh _ _ imm | .sb _ _ imm => some imm
  | .qapply _ _ imm => some imm
  | .qinit _ | .qmeasure _ _ | .qentangle _ _ _ => none

/-- A register index is below NREG (R94, R114). -/
def registerInRange (p : Params) (r : RegIdx) : Bool := decide (r.toNat < p.nreg)

/-- An immediate is in [IMM_MIN, IMM_MAX] (R96, R114). -/
def immediateInRange (p : Params) (z : Int) : Bool := decide (p.immMin ≤ z ∧ z ≤ p.immMax)

/-- A well-formed instruction (R114). -/
def WellFormed (p : Params) (i : Instr) : Bool :=
  i.regs.all (registerInRange p) && i.immediate.all (immediateInRange p)

end Sys2Proof
end

