-- ==== Sys2Proof/Decode.lean ====
section
/-! DEFINITION. The instruction decoder (30_encoding.md): the opcode table, the decoded instruction record (DIR) with its
decoder and encoder, the text decoder of one line and of a whole program, and the printer. -/

namespace Sys2Proof

/-! ### The opcode table (R100, R101, R112) -/

/-- The operand shapes of R101, each with the constructor it fills. -/
inductive Shape where
  | rdRs1Rs2 (mk : RegIdx → RegIdx → RegIdx → Instr)
  | rdRs1Imm (mk : RegIdx → RegIdx → Int → Instr)
  | rdImm (mk : RegIdx → Int → Instr)
  | rs1Rs2Imm (mk : RegIdx → RegIdx → Int → Instr)
  | load (mk : RegIdx → RegIdx → Int → Instr)
  | store (mk : RegIdx → RegIdx → Int → Instr)
  | rdOnly (mk : RegIdx → Instr)
  | rdRs1 (mk : RegIdx → RegIdx → Instr)

/-- One row of the opcode table: the opcode id of R112, the mnemonic of R100, the shape of R101. -/
structure OpRow where
  opc : BitVec 8
  name : List Char
  shape : Shape

def rTypeRows : List OpRow :=
  [⟨0x01, "add".toList, .rdRs1Rs2 .add⟩, ⟨0x02, "sub".toList, .rdRs1Rs2 .sub⟩, ⟨0x03, "and".toList, .rdRs1Rs2 .and⟩,
   ⟨0x04, "or".toList, .rdRs1Rs2 .or⟩, ⟨0x05, "xor".toList, .rdRs1Rs2 .xor⟩, ⟨0x06, "sll".toList, .rdRs1Rs2 .sll⟩,
   ⟨0x07, "srl".toList, .rdRs1Rs2 .srl⟩, ⟨0x08, "sra".toList, .rdRs1Rs2 .sra⟩, ⟨0x09, "slt".toList, .rdRs1Rs2 .slt⟩,
   ⟨0x0A, "sltu".toList, .rdRs1Rs2 .sltu⟩]

def iTypeRows : List OpRow :=
  [⟨0x10, "addi".toList, .rdRs1Imm .addi⟩, ⟨0x11, "slli".toList, .rdRs1Imm .slli⟩, ⟨0x12, "srli".toList, .rdRs1Imm .srli⟩,
   ⟨0x13, "srai".toList, .rdRs1Imm .srai⟩, ⟨0x14, "andi".toList, .rdRs1Imm .andi⟩, ⟨0x15, "ori".toList, .rdRs1Imm .ori⟩,
   ⟨0x16, "xori".toList, .rdRs1Imm .xori⟩, ⟨0x17, "slti".toList, .rdRs1Imm .slti⟩, ⟨0x18, "sltiu".toList, .rdRs1Imm .sltiu⟩]

def upperAndJumpRows : List OpRow :=
  [⟨0x20, "lui".toList, .rdImm .lui⟩, ⟨0x21, "auipc".toList, .rdImm .auipc⟩,
   ⟨0x28, "jal".toList, .rdImm .jal⟩, ⟨0x29, "jalr".toList, .rdRs1Imm .jalr⟩]

def bTypeRows : List OpRow :=
  [⟨0x30, "beq".toList, .rs1Rs2Imm .beq⟩, ⟨0x31, "bne".toList, .rs1Rs2Imm .bne⟩, ⟨0x32, "blt".toList, .rs1Rs2Imm .blt⟩,
   ⟨0x33, "bge".toList, .rs1Rs2Imm .bge⟩, ⟨0x34, "bltu".toList, .rs1Rs2Imm .bltu⟩, ⟨0x35, "bgeu".toList, .rs1Rs2Imm .bgeu⟩]

def loadStoreRows : List OpRow :=
  [⟨0x40, "lw".toList, .load .lw⟩, ⟨0x41, "lh".toList, .load .lh⟩, ⟨0x42, "lb".toList, .load .lb⟩,
   ⟨0x43, "lwu".toList, .load .lwu⟩, ⟨0x44, "lhu".toList, .load .lhu⟩, ⟨0x45, "lbu".toList, .load .lbu⟩,
   ⟨0x48, "sw".toList, .store .sw⟩, ⟨0x49, "sh".toList, .store .sh⟩, ⟨0x4A, "sb".toList, .store .sb⟩]

def quantumRows : List OpRow :=
  [⟨0x50, "qinit".toList, .rdOnly .qinit⟩, ⟨0x51, "qapply".toList, .rdRs1Imm .qapply⟩,
   ⟨0x52, "qmeasure".toList, .rdRs1 .qmeasure⟩, ⟨0x53, "qentangle".toList, .rdRs1Rs2 .qentangle⟩]

/-- The opcode set is closed: these 42 rows (R100, R112). -/
def opTable : List OpRow :=
  rTypeRows ++ iTypeRows ++ upperAndJumpRows ++ bTypeRows ++ loadStoreRows ++ quantumRows

/-- The row of an opcode id; none for a reserved id (R112, R113). -/
def rowOfOpc (opc : BitVec 8) : Option OpRow := opTable.find? fun row => row.opc == opc

/-- The row of a mnemonic, which must match character for character (R93). -/
def rowOfName (name : List Char) : Option OpRow := opTable.find? fun row => row.name == name

/-! ### The decoded instruction record (R110, R111) -/

/-- The fields of a DIR (R110). -/
structure DirFields where
  opc : BitVec 8
  rd : RegIdx
  rs1 : RegIdx
  rs2 : RegIdx
  imm : Int
  deriving DecidableEq, Repr

/-- The 96 bits of a record's fields: imm in [95:32], rs2, rs1, rd, opc in the low 32 bits (R110). -/
def packDir (f : DirFields) : Dir := BitVec.ofInt 64 f.imm ++ f.rs2 ++ f.rs1 ++ f.rd ++ f.opc

/-- The fields of a record's 96 bits, the immediate read in two's complement (R110). -/
def unpackDir (w : Dir) : DirFields where
  opc := w.extractLsb' 0 8
  rd := w.extractLsb' 8 8
  rs1 := w.extractLsb' 16 8
  rs2 := w.extractLsb' 24 8
  imm := (w.extractLsb' 32 64).toInt

/-- The fields an instruction sets, every other field 0 (R101, R111), with its opcode id (R112). -/
def instrFields : Instr → DirFields
  | .add rd rs1 rs2 => ⟨0x01, rd, rs1, rs2, 0⟩
  | .sub rd rs1 rs2 => ⟨0x02, rd, rs1, rs2, 0⟩
  | .and rd rs1 rs2 => ⟨0x03, rd, rs1, rs2, 0⟩
  | .or rd rs1 rs2 => ⟨0x04, rd, rs1, rs2, 0⟩
  | .xor rd rs1 rs2 => ⟨0x05, rd, rs1, rs2, 0⟩
  | .sll rd rs1 rs2 => ⟨0x06, rd, rs1, rs2, 0⟩
  | .srl rd rs1 rs2 => ⟨0x07, rd, rs1, rs2, 0⟩
  | .sra rd rs1 rs2 => ⟨0x08, rd, rs1, rs2, 0⟩
  | .slt rd rs1 rs2 => ⟨0x09, rd, rs1, rs2, 0⟩
  | .sltu rd rs1 rs2 => ⟨0x0A, rd, rs1, rs2, 0⟩
  | .addi rd rs1 imm => ⟨0x10, rd, rs1, 0, imm⟩
  | .slli rd rs1 imm => ⟨0x11, rd, rs1, 0, imm⟩
  | .srli rd rs1 imm => ⟨0x12, rd, rs1, 0, imm⟩
  | .srai rd rs1 imm => ⟨0x13, rd, rs1, 0, imm⟩
  | .andi rd rs1 imm => ⟨0x14, rd, rs1, 0, imm⟩
  | .ori rd rs1 imm => ⟨0x15, rd, rs1, 0, imm⟩
  | .xori rd rs1 imm => ⟨0x16, rd, rs1, 0, imm⟩
  | .slti rd rs1 imm => ⟨0x17, rd, rs1, 0, imm⟩
  | .sltiu rd rs1 imm => ⟨0x18, rd, rs1, 0, imm⟩
  | .lui rd imm => ⟨0x20, rd, 0, 0, imm⟩
  | .auipc rd imm => ⟨0x21, rd, 0, 0, imm⟩
  | .jal rd imm => ⟨0x28, rd, 0, 0, imm⟩
  | .jalr rd rs1 imm => ⟨0x29, rd, rs1, 0, imm⟩
  | .beq rs1 rs2 imm => ⟨0x30, 0, rs1, rs2, imm⟩
  | .bne rs1 rs2 imm => ⟨0x31, 0, rs1, rs2, imm⟩
  | .blt rs1 rs2 imm => ⟨0x32, 0, rs1, rs2, imm⟩
  | .bge rs1 rs2 imm => ⟨0x33, 0, rs1, rs2, imm⟩
  | .bltu rs1 rs2 imm => ⟨0x34, 0, rs1, rs2, imm⟩
  | .bgeu rs1 rs2 imm => ⟨0x35, 0, rs1, rs2, imm⟩
  | .lw rd rs1 imm => ⟨0x40, rd, rs1, 0, imm⟩
  | .lh rd rs1 imm => ⟨0x41, rd, rs1, 0, imm⟩
  | .lb rd rs1 imm => ⟨0x42, rd, rs1, 0, imm⟩
  | .lwu rd rs1 imm => ⟨0x43, rd, rs1, 0, imm⟩
  | .lhu rd rs1 imm => ⟨0x44, rd, rs1, 0, imm⟩
  | .lbu rd rs1 imm => ⟨0x45, rd, rs1, 0, imm⟩
  | .sw rs2 rs1 imm => ⟨0x48, 0, rs1, rs2, imm⟩
  | .sh rs2 rs1 imm => ⟨0x49, 0, rs1, rs2, imm⟩
  | .sb rs2 rs1 imm => ⟨0x4A, 0, rs1, rs2, imm⟩
  | .qinit rd => ⟨0x50, rd, 0, 0, 0⟩
  | .qapply rd rs1 imm => ⟨0x51, rd, rs1, 0, imm⟩
  | .qmeasure rd rs1 => ⟨0x52, rd, rs1, 0, 0⟩
  | .qentangle rd rs1 rs2 => ⟨0x53, rd, rs1, rs2, 0⟩

/-- The DIR of an instruction (R110, R111). -/
def encode (i : Instr) : Dir := packDir (instrFields i)

/-- The instruction of a record's fields, where every field its format does not set is 0 (R101, R111, R114). -/
def shapeOfFields (sh : Shape) (f : DirFields) : Option Instr :=
  match sh with
  | .rdRs1Rs2 mk => if f.imm = 0 then some (mk f.rd f.rs1 f.rs2) else none
  | .rdRs1Imm mk => if f.rs2 = 0 then some (mk f.rd f.rs1 f.imm) else none
  | .rdImm mk => if f.rs1 = 0 ∧ f.rs2 = 0 then some (mk f.rd f.imm) else none
  | .rs1Rs2Imm mk => if f.rd = 0 then some (mk f.rs1 f.rs2 f.imm) else none
  | .load mk => if f.rs2 = 0 then some (mk f.rd f.rs1 f.imm) else none
  | .store mk => if f.rd = 0 then some (mk f.rs2 f.rs1 f.imm) else none
  | .rdOnly mk => if f.rs1 = 0 ∧ f.rs2 = 0 ∧ f.imm = 0 then some (mk f.rd) else none
  | .rdRs1 mk => if f.rs2 = 0 ∧ f.imm = 0 then some (mk f.rd f.rs1) else none

/-- Why a DIR has no instruction: its opcode id is reserved (R113), or it is ill-formed (R114). -/
inductive DirReject where
  | reservedOpcode (opc : BitVec 8)
  | illFormed
  deriving DecidableEq, Repr

/-- The instruction of a DIR (R110 to R114). -/
def decodeDir (p : Params) (w : Dir) : Except DirReject Instr :=
  match rowOfOpc (unpackDir w).opc with
  | none => .error (.reservedOpcode (unpackDir w).opc)
  | some row =>
    match shapeOfFields row.shape (unpackDir w) with
    | none => .error .illFormed
    | some i => if WellFormed p i then .ok i else .error .illFormed

/-- What the decoder reads from an instruction whose bits are `w`, of which the table numbers `nbits`; the bits above
them are 0. The register count and the immediate range are those of State.reset's instance. -/
def decodeTableWord (nbits w : Nat) : Option Instr :=
  match decodeDir resetParams (BitVec.ofNat 96 (w % 2 ^ nbits)) with
  | .ok i => some i
  | .error _ => none

/-! ### Lines and tokens (R90 to R104) -/

/-- Why a line is a `ParseError` (R321): each cause names what the rule asks the message to name. -/
inductive ParseCause where
  | indentedComment                       -- R91
  | emptyField                            -- R92
  | operandCount (expected : Nat)         -- R98
  | badImmediate (token : List Char)      -- R95
  | immediateOutOfRange (value : Int)     -- R96
  | badMemoryOperand (token : List Char)  -- R97
  deriving DecidableEq, Repr

/-- The decode-time errors, kinds 1 to 3 of R320. -/
inductive DecodeError where
  | parseError (cause : ParseCause)
  | registerOutOfRange (token : List Char)
  | unknownOpcode (mnemonic : List Char)
  deriving DecidableEq, Repr

/-- Space, tab and carriage return (R90, R91). -/
def isBlank (c : Char) : Bool := c == ' ' || c == '\t' || c == '\r'

/-- A separator: whitespace or a comma (R92). -/
def isSeparator (c : Char) : Bool := isBlank c || c == ','

/-- No empty comma field (R92): no two commas with only whitespace between, no comma first or last.
`afterComma` says that only whitespace stands since a comma or the start of the line. -/
def commasOk (afterComma : Bool) : List Char → Bool
  | [] => !afterComma
  | c :: cs =>
    if isBlank c then commasOk afterComma cs
    else if c == ',' then !afterComma && commasOk true cs
    else commasOk false cs

/-- The tokens of a line: the maximal runs of characters that are no separators (R92). `cur` is the run being read. -/
def tokensFrom (cur : List Char) : List Char → List (List Char)
  | [] => if cur.isEmpty then [] else [cur]
  | c :: cs =>
    if isSeparator c then
      if cur.isEmpty then tokensFrom [] cs else cur :: tokensFrom [] cs
    else tokensFrom (cur ++ [c]) cs

def tokens (line : List Char) : List (List Char) := tokensFrom [] line

/-- A decimal digit `0` to `9`. -/
def isDigit (c : Char) : Bool := decide (48 ≤ c.toNat ∧ c.toNat ≤ 57)

/-- The value of a run of decimal digits, read in base 10 (R94, R95). -/
def digitsValue (ds : List Char) : Nat := ds.foldl (fun n c => 10 * n + (c.toNat - 48)) 0

/-- The value of one or more decimal digits; none for any other text (R94, R95). -/
def parseNat (ds : List Char) : Option Nat :=
  if !ds.isEmpty && ds.all isDigit then some (digitsValue ds) else none

/-- A register token: `x` and one or more digits, the value below NREG (R94). -/
def parseRegister (p : Params) (tok : List Char) : Except DecodeError RegIdx :=
  match tok with
  | 'x' :: ds =>
    match parseNat ds with
    | some n => if n < p.nreg then .ok (BitVec.ofNat 8 n) else .error (.registerOutOfRange tok)
    | none => .error (.registerOutOfRange tok)
  | _ => .error (.registerOutOfRange tok)

/-- The integer an immediate token spells: an optional `-` and one or more digits (R95). -/
def parseInt (tok : List Char) : Option Int :=
  match tok with
  | '-' :: ds => (parseNat ds).map fun n => -(n : Int)
  | ds => (parseNat ds).map fun n => (n : Int)

/-- An immediate token, its value in [IMM_MIN, IMM_MAX] (R95, R96). -/
def parseImmediate (p : Params) (tok : List Char) : Except DecodeError Int :=
  match parseInt tok with
  | none => .error (.parseError (.badImmediate tok))
  | some z => if immediateInRange p z then .ok z else .error (.parseError (.immediateOutOfRange z))

/-- The two parts of a memory operand `<imm>(<reg>)` (R97): one `(`, one `)`, the `)` last, something before the `(`
(what R97 leaves open of the shape: log 17). -/
def splitMemoryOperand (tok : List Char) : Option (List Char × List Char) :=
  let offset := tok.takeWhile fun c => c != '('
  let inside := (tok.dropWhile fun c => c != '(').drop 1
  let base := inside.dropLast
  if !offset.isEmpty && inside.getLast? == some ')' && (offset ++ base).all (fun c => c != '(' && c != ')')
  then some (offset, base) else none

/-- A memory operand: shape, then offset, then register (R97, R99). Answers the base register and the offset. -/
def parseMemoryOperand (p : Params) (tok : List Char) : Except DecodeError (RegIdx × Int) :=
  match splitMemoryOperand tok with
  | none => .error (.parseError (.badMemoryOperand tok))
  | some (offset, base) => do
    let imm ← parseImmediate p offset
    let rs1 ← parseRegister p base
    return (rs1, imm)

/-- How many operand tokens a shape takes (R98, R101). -/
def shapeArity : Shape → Nat
  | .rdRs1Rs2 _ => 3
  | .rdRs1Imm _ => 3
  | .rdImm _ => 2
  | .rs1Rs2Imm _ => 3
  | .load _ => 2
  | .store _ => 2
  | .rdOnly _ => 1
  | .rdRs1 _ => 2

/-- The operands of a line: their count first, then left to right (R98, R99). -/
def parseOperands (p : Params) (sh : Shape) (toks : List (List Char)) : Except DecodeError Instr :=
  match sh, toks with
  | .rdRs1Rs2 mk, [a, b, c] => do
    let rd ← parseRegister p a
    let rs1 ← parseRegister p b
    let rs2 ← parseRegister p c
    return mk rd rs1 rs2
  | .rdRs1Imm mk, [a, b, c] => do
    let rd ← parseRegister p a
    let rs1 ← parseRegister p b
    let imm ← parseImmediate p c
    return mk rd rs1 imm
  | .rdImm mk, [a, b] => do
    let rd ← parseRegister p a
    let imm ← parseImmediate p b
    return mk rd imm
  | .rs1Rs2Imm mk, [a, b, c] => do
    let rs1 ← parseRegister p a
    let rs2 ← parseRegister p b
    let imm ← parseImmediate p c
    return mk rs1 rs2 imm
  | .load mk, [a, b] => do
    let rd ← parseRegister p a
    let (rs1, imm) ← parseMemoryOperand p b
    return mk rd rs1 imm
  | .store mk, [a, b] => do
    let rs2 ← parseRegister p a
    let (rs1, imm) ← parseMemoryOperand p b
    return mk rs2 rs1 imm
  | .rdOnly mk, [a] => do
    let rd ← parseRegister p a
    return mk rd
  | .rdRs1 mk, [a, b] => do
    let rd ← parseRegister p a
    let rs1 ← parseRegister p b
    return mk rd rs1
  | sh, _ => .error (.parseError (.operandCount (shapeArity sh)))

/-- What the decoder makes of one line (R115). -/
inductive LineResult where
  | ignored
  | instr (i : Instr)
  | error (e : DecodeError)
  deriving DecidableEq, Repr

/-- The decoder of one line, its checks in the order of R99. -/
def decodeLine (p : Params) (line : List Char) : LineResult :=
  if line.all isBlank || line.head? == some '#' then .ignored
  else if (line.dropWhile isBlank).head? == some '#' then .error (.parseError .indentedComment)
  else if !commasOk true line then .error (.parseError .emptyField)
  else
    match tokens line with
    | [] => .error (.parseError .emptyField)
    | name :: operands =>
      match rowOfName name with
      | none => .error (.unknownOpcode name)
      | some row =>
        match parseOperands p row.shape operands with
        | .ok i => .instr i
        | .error e => .error e

/-! ### A whole program (R150) -/

/-- One entry of the program store: the DIR and the originating text (R44, R110). -/
structure Record where
  dir : Dir
  text : List Char
  deriving DecidableEq, Repr

/-- The error of a failed load: the first failing line, its 1-based number and its text (R150, R331). -/
structure LoadError where
  kind : DecodeError
  line : Nat
  text : List Char
  deriving DecidableEq, Repr

/-- The lines of a text: they end at LF (92 D34). -/
def splitLines : List Char → List (List Char)
  | [] => [[]]
  | c :: cs =>
    if c == '\n' then [] :: splitLines cs
    else
      match splitLines cs with
      | [] => [[c]]
      | l :: ls => (c :: l) :: ls

/-- The records of the lines from number `n` on, ignored lines left out, or the first failing line (R150). -/
def decodeLines (p : Params) (n : Nat) : List (List Char) → Except LoadError (List Record)
  | [] => .ok []
  | l :: ls =>
    match decodeLine p l with
    | .ignored => decodeLines p (n + 1) ls
    | .error e => .error ⟨e, n, l⟩
    | .instr i =>
      match decodeLines p (n + 1) ls with
      | .ok rs => .ok (⟨encode i, l⟩ :: rs)
      | .error e => .error e

/-- The program a text holds (R150). -/
def decodeProgram (p : Params) (text : List Char) : Except LoadError (List Record) :=
  decodeLines p 1 (splitLines text)

/-! ### Printing (R118) -/

/-- The character of a decimal digit. -/
def digitChar (d : Nat) : Char := Char.ofNat (48 + d)

/-- The decimal digits of `n` in front of `acc`; `fuel` bounds their number. -/
def decimalDigits : Nat → Nat → List Char → List Char
  | 0, _, acc => acc
  | fuel + 1, n, acc =>
    if n < 10 then digitChar n :: acc
    else decimalDigits fuel (n / 10) (digitChar (n % 10) :: acc)

def printNat (n : Nat) : List Char := decimalDigits (n + 1) n []

/-- An immediate in decimal, with a leading `-` when negative (R118). -/
def printInt (z : Int) : List Char := if z < 0 then '-' :: printNat z.natAbs else printNat z.natAbs

/-- A register without leading zeros (R118). -/
def printRegister (r : RegIdx) : List Char := 'x' :: printNat r.toNat

/-- A memory operand `<imm>(x<rs1>)` (R118). -/
def printMemoryOperand (rs1 : RegIdx) (imm : Int) : List Char := printInt imm ++ '(' :: printRegister rs1 ++ [')']

/-- The mnemonic, one space, then the operands separated by a comma and a space (R118). -/
def printParts (name : List Char) (operands : List (List Char)) : List Char :=
  name ++ ' ' :: (", ".toList).intercalate operands

def printR (name : List Char) (rd rs1 rs2 : RegIdx) : List Char :=
  printParts name [printRegister rd, printRegister rs1, printRegister rs2]

def printI (name : List Char) (a b : RegIdx) (imm : Int) : List Char :=
  printParts name [printRegister a, printRegister b, printInt imm]

def printU (name : List Char) (rd : RegIdx) (imm : Int) : List Char :=
  printParts name [printRegister rd, printInt imm]

def printM (name : List Char) (a rs1 : RegIdx) (imm : Int) : List Char :=
  printParts name [printRegister a, printMemoryOperand rs1 imm]

/-- The text of an instruction (R118). -/
def printInstr : Instr → List Char
  | .add rd rs1 rs2 => printR "add".toList rd rs1 rs2
  | .sub rd rs1 rs2 => printR "sub".toList rd rs1 rs2
  | .and rd rs1 rs2 => printR "and".toList rd rs1 rs2
  | .or rd rs1 rs2 => printR "or".toList rd rs1 rs2
  | .xor rd rs1 rs2 => printR "xor".toList rd rs1 rs2
  | .sll rd rs1 rs2 => printR "sll".toList rd rs1 rs2
  | .srl rd rs1 rs2 => printR "srl".toList rd rs1 rs2
  | .sra rd rs1 rs2 => printR "sra".toList rd rs1 rs2
  | .slt rd rs1 rs2 => printR "slt".toList rd rs1 rs2
  | .sltu rd rs1 rs2 => printR "sltu".toList rd rs1 rs2
  | .addi rd rs1 imm => printI "addi".toList rd rs1 imm
  | .slli rd rs1 imm => printI "slli".toList rd rs1 imm
  | .srli rd rs1 imm => printI "srli".toList rd rs1 imm
  | .srai rd rs1 imm => printI "srai".toList rd rs1 imm
  | .andi rd rs1 imm => printI "andi".toList rd rs1 imm
  | .ori rd rs1 imm => printI "ori".toList rd rs1 imm
  | .xori rd rs1 imm => printI "xori".toList rd rs1 imm
  | .slti rd rs1 imm => printI "slti".toList rd rs1 imm
  | .sltiu rd rs1 imm => printI "sltiu".toList rd rs1 imm
  | .lui rd imm => printU "lui".toList rd imm
  | .auipc rd imm => printU "auipc".toList rd imm
  | .jal rd imm => printU "jal".toList rd imm
  | .jalr rd rs1 imm => printI "jalr".toList rd rs1 imm
  | .beq rs1 rs2 imm => printI "beq".toList rs1 rs2 imm
  | .bne rs1 rs2 imm => printI "bne".toList rs1 rs2 imm
  | .blt rs1 rs2 imm => printI "blt".toList rs1 rs2 imm
  | .bge rs1 rs2 imm => printI "bge".toList rs1 rs2 imm
  | .bltu rs1 rs2 imm => printI "bltu".toList rs1 rs2 imm
  | .bgeu rs1 rs2 imm => printI "bgeu".toList rs1 rs2 imm
  | .lw rd rs1 imm => printM "lw".toList rd rs1 imm
  | .lh rd rs1 imm => printM "lh".toList rd rs1 imm
  | .lb rd rs1 imm => printM "lb".toList rd rs1 imm
  | .lwu rd rs1 imm => printM "lwu".toList rd rs1 imm
  | .lhu rd rs1 imm => printM "lhu".toList rd rs1 imm
  | .lbu rd rs1 imm => printM "lbu".toList rd rs1 imm
  | .sw rs2 rs1 imm => printM "sw".toList rs2 rs1 imm
  | .sh rs2 rs1 imm => printM "sh".toList rs2 rs1 imm
  | .sb rs2 rs1 imm => printM "sb".toList rs2 rs1 imm
  | .qinit rd => printParts "qinit".toList [printRegister rd]
  | .qapply rd rs1 imm => printI "qapply".toList rd rs1 imm
  | .qmeasure rd rs1 => printParts "qmeasure".toList [printRegister rd, printRegister rs1]
  | .qentangle rd rs1 rs2 => printR "qentangle".toList rd rs1 rs2

end Sys2Proof
end

