-- ==== Sys2Proof/Machine/Memory.lean ====
section
/-! DEFINITION. The data memory (20_memory.md): a list of (address, byte) in one canonical form, addresses strictly
rising and no listed byte equal to what an unlisted address reads as. -/

namespace Sys2Proof.Machine

/-- The bytes of data memory that are not `unlistedByte`, by address (R60, R62). -/
abbrev Memory := List Host.Cell

/-- What an unlisted address reads as (DESIGN CHOICE, log 5: the source gives no initial contents, R62). -/
def unlistedByte : Byte := 0

/-- The byte at an address, M[a]. -/
def Memory.read : Memory → Nat → Byte
  | [], _ => unlistedByte
  | (b, v) :: m, a => if a = b then v else Memory.read m a

/-- M[a] := v, keeping the canonical form: storing `unlistedByte` removes the entry. -/
def Memory.write : Memory → Nat → Byte → Memory
  | [], a, v => if v = unlistedByte then [] else [(a, v)]
  | (b, w) :: m, a, v =>
    if a < b then (if v = unlistedByte then (b, w) :: m else (a, v) :: (b, w) :: m)
    else if a = b then (if v = unlistedByte then m else (a, v) :: m)
    else (b, w) :: Memory.write m a v

/-- Every listed address is at least `lo`, addresses rise strictly, and no listed byte is `unlistedByte`. -/
def Memory.wfFrom : Nat → Memory → Bool
  | _, [] => true
  | lo, (b, v) :: m => decide (lo ≤ b) && decide (v ≠ unlistedByte) && Memory.wfFrom (b + 1) m

/-- The canonical form holds. -/
def Memory.wf (m : Memory) : Bool := Memory.wfFrom 0 m

/-- Every listed address is below the capacity (R72). -/
def Memory.within (capacity : Nat) (m : Memory) : Bool := m.all fun c => decide (c.1 < capacity)

/-- The memory that holds the given bytes, those at an address of the capacity or above left out (R62, R72). -/
def Memory.ofCells (capacity : Nat) (cells : List Host.Cell) : Memory :=
  cells.foldl (fun m c => if c.1 < capacity then Memory.write m c.1 c.2 else m) []

/-- `MemRead(a, n)`: the n bytes from `a`, least significant first, as an unsigned integer (R65). -/
def Memory.readLE (m : Memory) (a : Nat) : Nat → Nat
  | 0 => 0
  | n + 1 => (Memory.read m a).toNat + 2 ^ 8 * Memory.readLE m (a + 1) n

/-- `MemWrite(a, n, v)`: the low 8n bits of `v` to the n bytes from `a`, least significant first (R66). -/
def Memory.writeLE (m : Memory) (a : Nat) : Nat → Word → Memory
  | 0, _ => m
  | n + 1, v => Memory.writeLE (Memory.write m a (v.setWidth 8)) (a + 1) n (v >>> 8)

end Sys2Proof.Machine
end

