-- ==== Sys2Proof/Machine/State.lean ====
section
/-! DEFINITION. The state of one machine instance (10_state.md), the errors and stops, the host operations and what they
answer, and the machine right after construction. -/

namespace Sys2Proof.Machine

/-- The reasons of `Unmodelled(reason)` (R329). -/
inductive Reason where
  | shiftAmount     -- R170
  | negativeShift   -- R170
  | uImmRange       -- R230
  | jalrLinkOrder   -- R241
  | portResponse    -- R301
  deriving DecidableEq, Repr

/-- The machine stops with a fault. -/
inductive Fault where
  /-- `Unmodelled(reason)`, error kind 9 (R13, R320, R329), with the instruction's own index. Raised by the shifts under
  `ShiftOversize.refuse` and for a negative amount under `goSaturate`, by lui and auipc under `refuseOutside20Bit`, by
  jalr with rd = rs1 ≠ x0 under `JalrLinkOrder.refuse`, and by a quantum instruction whose answer is off the port's
  contract. SAFE: the spec gives these forms no meaning, and after a fault nothing can be proved. -/
  | unmodelled (reason : Reason) (pc : Word)
  deriving DecidableEq, Repr

/-- The model has no meaning for what it is asked to do. -/
inductive Refusal where
  /-- An instruction that has no meaning in the model yet: raised by an arm of `exec`. SAFE. -/
  | notModelled (mnemonic : String)
  /-- A run with no valid program store (R149, R330): raised by the host operation `run`. SAFE. -/
  | noProgram
  /-- A DIR that is ill-formed, though its opcode is not reserved (R114: "has no meaning and is refused"): raised when
  such a record is fetched. SAFE. -/
  | illFormedDir
  deriving DecidableEq, Repr

/-- The error kinds that reach the host (R320, kinds 1 to 8), with what they record. -/
inductive ErrorKind where
  | decode (e : DecodeError)
  | memoryOutOfBounds (address : Int) (width : Nat)
  | uninitializedQuantumRegister (reg : RegIdx)
  | unsupportedControlCount
  | pcOutOfRange (target : Int)
  | quantumPortFailure
  deriving DecidableEq, Repr

/-- An error as it reaches the host (R331). -/
structure ErrorRecord where
  kind : ErrorKind
  pc : Option Word
  line : Option Nat
  text : List Char
  deriving DecidableEq, Repr

/-- The engine status (R46). -/
inductive Status where
  | idle
  | running
  | halted
  | failed (err : ErrorRecord)
  deriving DecidableEq, Repr

/-- The `next` of a result record: a pc value or Halt (R142). It is an integer: no check applies to the target of an
ad-hoc instruction (R152). -/
inductive Next where
  | pc (t : Int)
  | halt
  deriving DecidableEq, Repr

/-- The host operations (40_engine.md section 4). -/
inductive HostOp where
  | loadProgram (text : List Char)   -- R150
  | run                              -- R147 to R149
  | step (pc : Word)                 -- R153
  | execute (line : List Char)       -- R152
  | dumpRegisters                    -- R37, R154
  | reconstruct                      -- R360
  deriving DecidableEq, Repr

/-- What a host operation answers to the host. -/
inductive Reply where
  | ok                               -- a run that ended in Halted (R147); a reconstructed machine (log 27)
  | loaded (len : Nat)               -- a load that succeeded (R150; log 24)
  | next (n : Next)                  -- the step interface and an ad-hoc instruction (R152, R153)
  | registers (values : List Word)   -- R37
  | ignoredLine                      -- an ad-hoc line that holds no instruction (log 16)
  | error (err : ErrorRecord)        -- R331
  deriving DecidableEq, Repr

/-- Which host operation's instruction is executing: a step of a run, the step interface at a pc (R153), or an ad-hoc
line, with the pc it sees (R152). -/
inductive Served where
  | run
  | step (pc : Word)
  | adhoc (pc : Word) (line : List Char)
  deriving DecidableEq, Repr

/-- The state of one machine instance (R48), with the model's own fields after it. -/
structure State where
  /-- The instance's parameters (R8). No step changes them. -/
  cfg : Params
  /-- RF: the NREG registers, x0 first (R30 to R33). -/
  regs : List Word
  /-- The program counter, an instruction index (R38). -/
  pc : Word
  /-- The data memory (R60). -/
  mem : Memory
  /-- The program store (R44). -/
  program : List Record
  /-- The program store's validity mark (R45). -/
  progValid : Bool
  /-- The engine status (R46). -/
  status : Status
  /-- Whose instruction is executing; `run` between steps. -/
  served : Served
  /-- The host operations waiting, oldest first (R155). -/
  inputs : List HostOp
  /-- What the last host operation answered. -/
  reply : Option Reply
  /-- The quantum port's answers that are fixed from outside, the next one first; after them answers are free (QPORT). -/
  portScript : List PortAnswer
  /-- The requests sent to the quantum port, oldest first (R300). -/
  requests : List QReq
  /-- How many free values have been drawn. -/
  draws : Nat
  deriving DecidableEq, Repr

/-- INIT_REGS as NREG values; x0 is 0 (R36). -/
def initialRegs (p : Params) : List Word :=
  (List.range p.nreg).map fun i => if i = 0 then 0 else p.initRegs.getD i 0

/-- A machine right after construction (R48, R360), its pc 0 (DESIGN CHOICE, log 6). -/
def State.construct (p : Params) : State where
  cfg := p
  regs := initialRegs p
  pc := 0
  mem := Memory.ofCells p.memCapacity p.initMem
  program := []
  progValid := false
  status := .idle
  served := .run
  inputs := []
  reply := none
  portScript := []
  requests := []
  draws := 0

/-- The machine right after reset: a construction with the parameters of Machine/Defaults.lean (R360). -/
def State.reset : State := State.construct resetParams

end Sys2Proof.Machine
end

