-- ==== Sys2Proof/Machine/Ops.lean ====
section
/-! DEFINITION. The named operations over registers, program counter and memory: the register file's reads and writes,
the bounds check, the target check, the commit of a result record, taking an error, and the quantum port call. -/

namespace Sys2Proof.Machine

/-! ### Registers -/

/-- `x[i]`: x0 reads 0 (R32). -/
def State.readReg (s : State) (i : RegIdx) : Word := if i = 0 then 0 else s.regs.getD i.toNat 0

/-- `x[i] <- v`: a write to x0 is discarded (R33). -/
def State.writeReg (s : State) (i : RegIdx) (v : Word) : State :=
  if i = 0 then s else { s with regs := s.regs.set i.toNat v }

/-- The NREG values in index order, index 0 as 0 (R37). -/
def State.dumpRegisters (s : State) : List Word := s.regs.set 0 0

/-! ### Memory and program store -/

/-- `MemWrite(a, n, v)` on the state (R66). -/
def State.writeMem (s : State) (a n : Nat) (v : Word) : State := { s with mem := s.mem.writeLE a n v }

/-- `len`, the number of instructions in the program store (R44). -/
def State.len (s : State) : Nat := s.program.length

/-- The index the executing instruction sees as `pc` (R39, R152, R153). -/
def State.instrPc (s : State) : Word :=
  match s.served with
  | .run => s.pc
  | .step p => p
  | .adhoc p _ => p

/-- The originating text of the executing instruction (R331). DESIGN CHOICE (log 26): where there is none (the step
interface past `len`), an empty text. -/
def State.instrText (s : State) : List Char :=
  match s.served with
  | .run => (s.program[s.pc.toNat]?).elim [] Record.text
  | .step p => (s.program[p.toNat]?).elim [] Record.text
  | .adhoc _ line => line

/-- The operation whose instruction executes is set. -/
def State.serve (s : State) (v : Served) : State := { s with served := v }

/-- Why an instruction yields no result record: an error of R320's kinds 1 to 8, or Unmodelled. -/
inductive Trap where
  | raise (e : ErrorKind)
  | unmodelled (r : Reason)
  deriving DecidableEq, Repr

/-- `CheckBounds(a, n)` over the integers; answers the address (R63). -/
def checkBounds (p : Params) (a : Int) (n : Nat) : Except Trap Nat :=
  if a < 0 ∨ a + n > p.memCapacity then .error (.raise (.memoryOutOfBounds a n)) else .ok a.toNat

/-- `CheckTarget(t)` (R146). It is not applied to an ad-hoc instruction (R152). -/
def checkTarget (s : State) (t : Int) : Except Trap Next :=
  match s.served with
  | .adhoc _ _ => .ok (.pc t)
  | _ =>
    if 0 ≤ t ∧ t ≤ s.len then .ok (.pc t)
    else
      match s.cfg.jumpPastEnd with
      | .fault => .error (.raise (.pcOutOfRange t))
      | .halt => .ok .halt

/-! ### Commit and error delivery (R142, R144, R147, R148, R331, R332) -/

/-- The result record of an instruction (R14, R142). -/
structure Result where
  next : Next
  regWrite : Option (RegIdx × Word) := none
  memWrite : Option (Nat × Nat × Word) := none
  deriving DecidableEq, Repr

/-- The sequential next pc (R143). -/
def State.seqNext (s : State) : Next := .pc ((s.instrPc.toNat : Int) + 1)

/-- A run ends normally (R144, R147). -/
def State.endRun (s : State) : State := { s with status := .halted, reply := some .ok }

/-- The `next` of a committed instruction: a run takes it as its pc, and ends when it is Halt or not below `len`
(R144, R147); the step interface and an ad-hoc instruction give it to the host (R152, R153). -/
def State.takeNext (s : State) (n : Next) : State :=
  match s.served with
  | .run =>
    match n with
    | .halt => s.endRun
    | .pc t =>
      if (s.len : Int) ≤ t then ({ s with pc := u64 t } : State).endRun else { s with pc := u64 t }
  | .step _ => { s with reply := some (.next n) }
  | .adhoc _ _ => { s with reply := some (.next n) }

/-- The memory write of a result record, if it has one. -/
def State.applyMem (s : State) (w : Option (Nat × Nat × Word)) : State :=
  match w with
  | none => s
  | some (a, n, v) => s.writeMem a n v

/-- The register write of a result record, if it has one. -/
def State.applyReg (s : State) (w : Option (RegIdx × Word)) : State :=
  match w with
  | none => s
  | some (i, v) => s.writeReg i v

/-- The commit of a result record: memory, then register, then next (R142). -/
def State.commit (s : State) (r : Result) : State := ((s.applyMem r.memWrite).applyReg r.regWrite).takeNext r.next

/-- The error record of the executing instruction: in a run with its index, else as it is, without a pc (R331). -/
def State.errorRecord (s : State) (e : ErrorKind) : ErrorRecord where
  kind := e
  pc := match s.served with
    | .run => some s.pc
    | .step _ => none
    | .adhoc _ _ => none
  line := none
  text := s.instrText

/-- TAKING AN ERROR (R142, R148, R331, R332): nothing is written and pc keeps the failing index; a run ends with status
`Failed(err)`; the host receives the record. No vector, no handler, no saved register. -/
def State.takeError (s : State) (e : ErrorKind) : State :=
  match s.served with
  | .run => { s with status := .failed (s.errorRecord e), reply := some (.error (s.errorRecord e)) }
  | .step _ => { s with reply := some (.error (s.errorRecord e)) }
  | .adhoc _ _ => { s with reply := some (.error (s.errorRecord e)) }

/-- The state an instruction leaves that has a result record or raises an error. -/
def State.settle (s : State) (r : Except ErrorKind Result) : State :=
  match r with
  | .ok res => s.commit res
  | .error e => s.takeError e

/-- The outcome of an instruction (R142; R329 for Unmodelled). -/
def State.finish (s : State) (r : Except Trap Result) : Host.Outcome State Fault Refusal :=
  match r with
  | .ok res => .next (s.settle (.ok res))
  | .error (.raise e) => .next (s.settle (.error e))
  | .error (.unmodelled why) => .fault (.unmodelled why s.instrPc)

/-! ### The error codes (R320, D21) -/

/-- The code of a decode-time error in R320's table. -/
def decodeErrorCode (e : DecodeError) : Nat :=
  match e with
  | .parseError _ => 1
  | .registerOutOfRange _ => 2
  | .unknownOpcode _ => 3

/-- The code of an error kind in R320's table. -/
def errorCode (e : ErrorKind) : Nat :=
  match e with
  | .decode d => decodeErrorCode d
  | .memoryOutOfBounds _ _ => 4
  | .uninitializedQuantumRegister _ => 5
  | .unsupportedControlCount => 6
  | .pcOutOfRange _ => 7
  | .quantumPortFailure => 8

/-- The code of a fault in R320's table: `Unmodelled(reason)` is kind 9. -/
def faultCode (f : Fault) : Nat :=
  match f with
  | .unmodelled _ _ => 9

/-! ### The quantum port (R300, R301) -/

/-- The state once a request is sent (R300). -/
def State.sendRequest (s : State) (q : QReq) : State := { s with requests := s.requests ++ [q] }

/-- The error an answer `Fail(k)` raises (R301, R325, R326, R328). -/
def portError (k : PortFail) : ErrorKind :=
  match k with
  | .uninitializedQuantumRegister r => .uninitializedQuantumRegister r
  | .unsupportedControlCount => .unsupportedControlCount
  | .quantumPortFailure => .quantumPortFailure

/-- What an answer to `qinit`, `qapply` or `qentangle` does (R302, R303, R305). -/
def plainAnswer (s : State) (a : PortAnswer) : Except Trap Result :=
  match a with
  | .done => .ok { next := s.seqNext }
  | .fail k => .error (.raise (portError k))
  | .bit _ => .error (.unmodelled .portResponse)
  | .other _ => .error (.unmodelled .portResponse)

/-- What an answer to `qmeasure rd` does (R304). -/
def measureAnswer (s : State) (rd : RegIdx) (a : PortAnswer) : Except Trap Result :=
  match a with
  | .done => .ok { next := s.seqNext }
  | .bit b => .ok { next := s.seqNext, regWrite := some (rd, if b then 1 else 0) }
  | .fail k => .error (.raise (portError k))
  | .other _ => .error (.unmodelled .portResponse)

/-- What a free answer to `qinit`, `qapply` or `qentangle` does: Done or Fail (R301; QPORT). DESIGN CHOICE (log 25): each
of R301's three failures is drawn for each of them, UnsupportedControlCount for `qentangle` too. -/
def plainDraw (s : State) (q : QReq) : Except ErrorKind Result :=
  match Config.portFailure s.draws q with
  | none => .ok { next := s.seqNext }
  | some k => .error (portError k)

/-- What a free answer to `qmeasure rd` does: Done, Bit or Fail (R301, R304; QPORT). DESIGN CHOICE (log 25): each of
R301's three failures is drawn, UnsupportedControlCount too. -/
def measureDraw (s : State) (rd : RegIdx) (q : QReq) : Except ErrorKind Result :=
  match Config.portFailure s.draws q with
  | some k => .error (portError k)
  | none =>
    match Config.measuredBit s.draws q with
    | none => .ok { next := s.seqNext }
    | some b => .ok { next := s.seqNext, regWrite := some (rd, if b then 1 else 0) }

/-- `PortCall` for `qinit`, `qapply` and `qentangle`: the request is sent, and the answer is the next one fixed from
outside or, where none is, a free one (R300 to R305). -/
def State.callPlain (s : State) (q : QReq) : Host.Outcome State Fault Refusal :=
  match s.portScript with
  | [] => .next ({ s.sendRequest q with draws := s.draws + 1 }.settle (plainDraw s q))
  | a :: rest => { s.sendRequest q with portScript := rest }.finish (plainAnswer s a)

/-- `PortCall` for `qmeasure rd` (R300, R301, R304). -/
def State.callMeasure (s : State) (rd : RegIdx) (q : QReq) : Host.Outcome State Fault Refusal :=
  match s.portScript with
  | [] => .next ({ s.sendRequest q with draws := s.draws + 1 }.settle (measureDraw s rd q))
  | a :: rest => { s.sendRequest q with portScript := rest }.finish (measureAnswer s rd a)

end Sys2Proof.Machine
end

