-- ==== Sys2Proof/Machine/Operands.lean ====
section
/-! DEFINITION. The operand forms: the effective address, sign and zero extension, the shift amount with every setting of
SHIFT_OVERSIZE, the upper immediate with every setting of U_IMM_MODE, and the base of a `jalr`. -/

namespace Sys2Proof.Machine

/-- Effective address `x[rs1] + imm`, over the integers (R270). -/
def State.effectiveAddress (s : State) (rs1 : RegIdx) (imm : Int) : Int := ((s.readReg rs1).toNat : Int) + imm

/-- `sext_N(v)` (R10). -/
def sext (n : Nat) (v : Nat) : Word := (BitVec.ofNat n v).signExtend 64

/-- `zext_N(v)` (R10). -/
def zext (n : Nat) (v : Nat) : Word := (BitVec.ofNat n v).setWidth 64

/-- A shift by an amount in [0, 63] (R176 to R178). -/
def shiftBy (k : ShiftKind) (v : Word) (n : Nat) : Word :=
  match k with
  | .left => v <<< n
  | .rightLogical => v >>> n
  | .rightArithmetic => v.sshiftRight n

/-- A shift by "64 or more" (R170, go_saturate). -/
def shiftOut (k : ShiftKind) (v : Word) : Word :=
  match k with
  | .left => 0
  | .rightLogical => 0
  | .rightArithmetic => if s64 v < 0 then BitVec.allOnes 64 else 0

/-- A shift by `ShAmt(amount)`, for an integer amount (R170). -/
def shiftResult (p : Params) (k : ShiftKind) (v : Word) (amount : Int) : Except Trap Word :=
  if 0 ≤ amount ∧ amount ≤ 63 then .ok (shiftBy k v amount.toNat)
  else
    match p.shiftOversize with
    | .refuse => .error (.unmodelled .shiftAmount)
    | .mask6 => .ok (shiftBy k v (amount % 64).toNat)
    | .goSaturate => if amount < 0 then .error (.unmodelled .negativeShift) else .ok (shiftOut k v)
    | .anyValue => .ok (Config.oversizeShift k v amount)

/-- `UImm(imm)` (R230). Under `anyValue` the value outside the 20-bit range is a free multiple of 2^12. -/
def upperImmediate (p : Params) (imm : Int) : Except Trap Word :=
  if -(2 ^ 19) ≤ imm ∧ imm ≤ 2 ^ 19 - 1 then .ok (u64 (imm * 2 ^ 12))
  else
    match p.uImmMode with
    | .refuseOutside20Bit => .error (.unmodelled .uImmRange)
    | .wide64 => .ok (u64 (imm * 2 ^ 12))
    | .anyValue => .ok (Config.upperImm imm ++ (0 : BitVec 12))

/-- The link value `pc + 1` (R240, R241). -/
def State.link (s : State) : Word := u64 ((s.instrPc.toNat : Int) + 1)

/-- The value of rs1 a `jalr rd, rs1, imm` adds its offset to (R241). -/
def State.jalrBase (s : State) (rd rs1 : RegIdx) : Except Trap Word :=
  if rd = rs1 ∧ rd ≠ 0 then
    match s.cfg.jalrLinkOrder with
    | .refuse => .error (.unmodelled .jalrLinkOrder)
    | .oldRs1 => .ok (s.readReg rs1)
    | .newRs1 => .ok s.link
    | .either => .ok (if Config.jalrReadsNewRs1 then s.link else s.readReg rs1)
  else .ok (s.readReg rs1)

/-- The result record of an instruction that writes `v` to rd and goes on (R142, R143). -/
def State.writeRd (s : State) (rd : RegIdx) (v : Word) : Result := { next := s.seqNext, regWrite := some (rd, v) }

/-- The result of an ALU instruction whose value is `v` or a trap. -/
def State.aluResult (s : State) (rd : RegIdx) (v : Except Trap Word) : Except Trap Result :=
  match v with
  | .ok w => .ok (s.writeRd rd w)
  | .error t => .error t

/-- The result of a jump to `t` that writes the link to rd (R240, R241). -/
def State.jumpResult (s : State) (rd : RegIdx) (t : Int) : Except Trap Result :=
  match checkTarget s t with
  | .ok n => .ok { next := n, regWrite := some (rd, s.link) }
  | .error e => .error e

/-- `Branch(cond)` with the offset `imm` (R242). -/
def State.branchResult (s : State) (cond : Bool) (imm : Int) : Except Trap Result :=
  if cond then
    match checkTarget s ((s.instrPc.toNat : Int) + imm) with
    | .ok n => .ok { next := n }
    | .error e => .error e
  else .ok { next := s.seqNext }

/-- `Load(n, ext)` (R271). `ext` extends the 8n bits read to 64. -/
def State.loadResult (s : State) (n : Nat) (ext : Nat → Word) (rd rs1 : RegIdx) (imm : Int) : Except Trap Result :=
  match checkBounds s.cfg (s.effectiveAddress rs1 imm) n with
  | .ok a => .ok (s.writeRd rd (ext (s.mem.readLE a n)))
  | .error e => .error e

/-- `Store(n)` (R271). -/
def State.storeResult (s : State) (n : Nat) (rs2 rs1 : RegIdx) (imm : Int) : Except Trap Result :=
  match checkBounds s.cfg (s.effectiveAddress rs1 imm) n with
  | .ok a => .ok { next := s.seqNext, memWrite := some (a, n, s.readReg rs2) }
  | .error e => .error e

end Sys2Proof.Machine
end

