-- ==== Sys2Proof/Machine/Control.lean ====
section
/-! DEFINITION. Jumps and branches (44_control.md). -/

namespace Sys2Proof.Machine

/-- `jal rd, imm` (R240): target pc + imm over the integers, link pc + 1. -/
def execJal (rd : RegIdx) (imm : Int) (s : State) : Host.Outcome State Fault Refusal :=
  s.finish (s.jumpResult rd ((s.instrPc.toNat : Int) + imm))

/-- `jalr rd, rs1, imm` (R241): target u64(base + imm), an unsigned index; link pc + 1. The static check comes first
(R335). -/
def execJalr (rd rs1 : RegIdx) (imm : Int) (s : State) : Host.Outcome State Fault Refusal :=
  match s.jalrBase rd rs1 with
  | .error t => s.finish (.error t)
  | .ok base => s.finish (s.jumpResult rd ((base + u64 imm).toNat : Int))

/-- `beq rs1, rs2, imm` (R243, R242). -/
def execBeq (rs1 rs2 : RegIdx) (imm : Int) (s : State) : Host.Outcome State Fault Refusal :=
  s.finish (s.branchResult (isEqual (s.readReg rs1) (s.readReg rs2)) imm)

/-- `bne rs1, rs2, imm` (R244, R242). -/
def execBne (rs1 rs2 : RegIdx) (imm : Int) (s : State) : Host.Outcome State Fault Refusal :=
  s.finish (s.branchResult (!isEqual (s.readReg rs1) (s.readReg rs2)) imm)

/-- `blt rs1, rs2, imm` (R245, R242). -/
def execBlt (rs1 rs2 : RegIdx) (imm : Int) (s : State) : Host.Outcome State Fault Refusal :=
  s.finish (s.branchResult (lessSigned (s.readReg rs1) (s.readReg rs2)) imm)

/-- `bge rs1, rs2, imm` (R246, R242). -/
def execBge (rs1 rs2 : RegIdx) (imm : Int) (s : State) : Host.Outcome State Fault Refusal :=
  s.finish (s.branchResult (!lessSigned (s.readReg rs1) (s.readReg rs2)) imm)

/-- `bltu rs1, rs2, imm` (R247, R242). -/
def execBltu (rs1 rs2 : RegIdx) (imm : Int) (s : State) : Host.Outcome State Fault Refusal :=
  s.finish (s.branchResult (lessUnsigned (s.readReg rs1) (s.readReg rs2)) imm)

/-- `bgeu rs1, rs2, imm` (R248, R242). -/
def execBgeu (rs1 rs2 : RegIdx) (imm : Int) (s : State) : Host.Outcome State Fault Refusal :=
  s.finish (s.branchResult (!lessUnsigned (s.readReg rs1) (s.readReg rs2)) imm)


end Sys2Proof.Machine
end

