-- ==== Sys2Proof/Machine/IType.lean ====
section
/-! DEFINITION. The I-type instructions (42_itype.md). -/

namespace Sys2Proof.Machine

/-- `addi rd, rs1, imm` (R202, R200). -/
def execAddi (rd rs1 : RegIdx) (imm : Int) (s : State) : Host.Outcome State Fault Refusal :=
  s.finish (s.aluResult rd (.ok (s.readReg rs1 + u64 imm)))

/-- `slli rd, rs1, imm` (R203), by `ShAmt(imm)` (R201). -/
def execSlli (rd rs1 : RegIdx) (imm : Int) (s : State) : Host.Outcome State Fault Refusal :=
  s.finish (s.aluResult rd (shiftResult s.cfg .left (s.readReg rs1) imm))

/-- `srli rd, rs1, imm` (R204), by `ShAmt(imm)` (R201). -/
def execSrli (rd rs1 : RegIdx) (imm : Int) (s : State) : Host.Outcome State Fault Refusal :=
  s.finish (s.aluResult rd (shiftResult s.cfg .rightLogical (s.readReg rs1) imm))

/-- `srai rd, rs1, imm` (R205), by `ShAmt(imm)` (R201). -/
def execSrai (rd rs1 : RegIdx) (imm : Int) (s : State) : Host.Outcome State Fault Refusal :=
  s.finish (s.aluResult rd (shiftResult s.cfg .rightArithmetic (s.readReg rs1) imm))

/-- `andi rd, rs1, imm` (R206, R200). -/
def execAndi (rd rs1 : RegIdx) (imm : Int) (s : State) : Host.Outcome State Fault Refusal :=
  s.finish (s.aluResult rd (.ok (s.readReg rs1 &&& u64 imm)))

/-- `ori rd, rs1, imm` (R207, R200). -/
def execOri (rd rs1 : RegIdx) (imm : Int) (s : State) : Host.Outcome State Fault Refusal :=
  s.finish (s.aluResult rd (.ok (s.readReg rs1 ||| u64 imm)))

/-- `xori rd, rs1, imm` (R208, R200). -/
def execXori (rd rs1 : RegIdx) (imm : Int) (s : State) : Host.Outcome State Fault Refusal :=
  s.finish (s.aluResult rd (.ok (s.readReg rs1 ^^^ u64 imm)))

/-- `slti rd, rs1, imm` (R209, R200). -/
def execSlti (rd rs1 : RegIdx) (imm : Int) (s : State) : Host.Outcome State Fault Refusal :=
  s.finish (s.aluResult rd (.ok (setIf (lessSigned (s.readReg rs1) (u64 imm)))))

/-- `sltiu rd, rs1, imm` (R210, R200): unsigned against the 64-bit pattern of imm. -/
def execSltiu (rd rs1 : RegIdx) (imm : Int) (s : State) : Host.Outcome State Fault Refusal :=
  s.finish (s.aluResult rd (.ok (setIf (lessUnsigned (s.readReg rs1) (u64 imm)))))


end Sys2Proof.Machine
end

