-- ==== Sys2Proof/Machine/LoadStore.lean ====
section
/-! DEFINITION. Loads and stores (45_load_store.md). -/

namespace Sys2Proof.Machine

/-- `lw rd, imm(rs1)` (R272): Load(4, sext). -/
def execLw (rd rs1 : RegIdx) (imm : Int) (s : State) : Host.Outcome State Fault Refusal :=
  s.finish (s.loadResult 4 (sext 32) rd rs1 imm)

/-- `lh rd, imm(rs1)` (R273): Load(2, sext). -/
def execLh (rd rs1 : RegIdx) (imm : Int) (s : State) : Host.Outcome State Fault Refusal :=
  s.finish (s.loadResult 2 (sext 16) rd rs1 imm)

/-- `lb rd, imm(rs1)` (R274): Load(1, sext). -/
def execLb (rd rs1 : RegIdx) (imm : Int) (s : State) : Host.Outcome State Fault Refusal :=
  s.finish (s.loadResult 1 (sext 8) rd rs1 imm)

/-- `lwu rd, imm(rs1)` (R275): Load(4, zext). -/
def execLwu (rd rs1 : RegIdx) (imm : Int) (s : State) : Host.Outcome State Fault Refusal :=
  s.finish (s.loadResult 4 (zext 32) rd rs1 imm)

/-- `lhu rd, imm(rs1)` (R276): Load(2, zext). -/
def execLhu (rd rs1 : RegIdx) (imm : Int) (s : State) : Host.Outcome State Fault Refusal :=
  s.finish (s.loadResult 2 (zext 16) rd rs1 imm)

/-- `lbu rd, imm(rs1)` (R277): Load(1, zext). -/
def execLbu (rd rs1 : RegIdx) (imm : Int) (s : State) : Host.Outcome State Fault Refusal :=
  s.finish (s.loadResult 1 (zext 8) rd rs1 imm)

/-- `sw rs2, imm(rs1)` (R278): Store(4). -/
def execSw (rs2 rs1 : RegIdx) (imm : Int) (s : State) : Host.Outcome State Fault Refusal :=
  s.finish (s.storeResult 4 rs2 rs1 imm)

/-- `sh rs2, imm(rs1)` (R279): Store(2). -/
def execSh (rs2 rs1 : RegIdx) (imm : Int) (s : State) : Host.Outcome State Fault Refusal :=
  s.finish (s.storeResult 2 rs2 rs1 imm)

/-- `sb rs2, imm(rs1)` (R280): Store(1). -/
def execSb (rs2 rs1 : RegIdx) (imm : Int) (s : State) : Host.Outcome State Fault Refusal :=
  s.finish (s.storeResult 1 rs2 rs1 imm)


end Sys2Proof.Machine
end

