-- ==== Sys2Proof/Machine/Quantum.lean ====
section
/-! DEFINITION. The quantum instructions (46_quantum_dispatch.md). -/

namespace Sys2Proof.Machine

/-- `qinit rd` (R302). -/
def execQinit (rd : RegIdx) (s : State) : Host.Outcome State Fault Refusal :=
  s.callPlain ⟨.qinit, rd, 0, 0, 0⟩

/-- `qapply rd, rs1, imm` (R303): imm goes to the port unchanged. -/
def execQapply (rd rs1 : RegIdx) (imm : Int) (s : State) : Host.Outcome State Fault Refusal :=
  s.callPlain ⟨.qapply, rd, rs1, 0, imm⟩

/-- `qmeasure rd, rs1` (R304): `Bit(b)` writes rd, `Done` writes nothing. -/
def execQmeasure (rd rs1 : RegIdx) (s : State) : Host.Outcome State Fault Refusal :=
  s.callMeasure rd ⟨.qmeasure, rd, rs1, 0, 0⟩

/-- `qentangle rd, rs1, rs2` (R305). -/
def execQentangle (rd rs1 rs2 : RegIdx) (s : State) : Host.Outcome State Fault Refusal :=
  s.callPlain ⟨.qentangle, rd, rs1, rs2, 0⟩


end Sys2Proof.Machine
end

