-- ==== Sys2Proof/Machine/RType.lean ====
section
/-! DEFINITION. The R-type instructions (41_rtype.md). -/

namespace Sys2Proof.Machine

/-- `add rd, rs1, rs2` (R171: x[rd] <- u64(x[rs1] + x[rs2])). -/
def execAdd (rd rs1 rs2 : RegIdx) (s : State) : Host.Outcome State Fault Refusal :=
  s.finish (s.aluResult rd (.ok (s.readReg rs1 + s.readReg rs2)))

/-- `sub rd, rs1, rs2` (R172: x[rd] <- u64(x[rs1] - x[rs2])). -/
def execSub (rd rs1 rs2 : RegIdx) (s : State) : Host.Outcome State Fault Refusal :=
  s.finish (s.aluResult rd (.ok (s.readReg rs1 - s.readReg rs2)))

/-- `and rd, rs1, rs2` (R173: x[rd] <- x[rs1] AND x[rs2]). -/
def execAnd (rd rs1 rs2 : RegIdx) (s : State) : Host.Outcome State Fault Refusal :=
  s.finish (s.aluResult rd (.ok (s.readReg rs1 &&& s.readReg rs2)))

/-- `or rd, rs1, rs2` (R174: x[rd] <- x[rs1] OR x[rs2]). -/
def execOr (rd rs1 rs2 : RegIdx) (s : State) : Host.Outcome State Fault Refusal :=
  s.finish (s.aluResult rd (.ok (s.readReg rs1 ||| s.readReg rs2)))

/-- `xor rd, rs1, rs2` (R175: x[rd] <- x[rs1] XOR x[rs2]). -/
def execXor (rd rs1 rs2 : RegIdx) (s : State) : Host.Outcome State Fault Refusal :=
  s.finish (s.aluResult rd (.ok (s.readReg rs1 ^^^ s.readReg rs2)))

/-- `sll rd, rs1, rs2` (R176), by `ShAmt(x[rs2])`, x[rs2] read unsigned (R170). -/
def execSll (rd rs1 rs2 : RegIdx) (s : State) : Host.Outcome State Fault Refusal :=
  s.finish (s.aluResult rd (shiftResult s.cfg .left (s.readReg rs1) (s.readReg rs2).toNat))

/-- `srl rd, rs1, rs2` (R177), by `ShAmt(x[rs2])`, x[rs2] read unsigned (R170). -/
def execSrl (rd rs1 rs2 : RegIdx) (s : State) : Host.Outcome State Fault Refusal :=
  s.finish (s.aluResult rd (shiftResult s.cfg .rightLogical (s.readReg rs1) (s.readReg rs2).toNat))

/-- `sra rd, rs1, rs2` (R178), by `ShAmt(x[rs2])`, x[rs2] read unsigned (R170). -/
def execSra (rd rs1 rs2 : RegIdx) (s : State) : Host.Outcome State Fault Refusal :=
  s.finish (s.aluResult rd (shiftResult s.cfg .rightArithmetic (s.readReg rs1) (s.readReg rs2).toNat))

/-- `slt rd, rs1, rs2` (R179). -/
def execSlt (rd rs1 rs2 : RegIdx) (s : State) : Host.Outcome State Fault Refusal :=
  s.finish (s.aluResult rd (.ok (setIf (lessSigned (s.readReg rs1) (s.readReg rs2)))))

/-- `sltu rd, rs1, rs2` (R180). -/
def execSltu (rd rs1 rs2 : RegIdx) (s : State) : Host.Outcome State Fault Refusal :=
  s.finish (s.aluResult rd (.ok (setIf (lessUnsigned (s.readReg rs1) (s.readReg rs2)))))


end Sys2Proof.Machine
end

