-- ==== Sys2Proof/Machine/UType.lean ====
section
/-! DEFINITION. The U-type instructions (43_utype.md). -/

namespace Sys2Proof.Machine

/-- `lui rd, imm` (R231): x[rd] <- UImm(imm). -/
def execLui (rd : RegIdx) (imm : Int) (s : State) : Host.Outcome State Fault Refusal :=
  s.finish (s.aluResult rd (upperImmediate s.cfg imm))

/-- `auipc rd, imm` (R232): x[rd] <- u64(pc + UImm(imm)), pc the instruction's own index. -/
def execAuipc (rd : RegIdx) (imm : Int) (s : State) : Host.Outcome State Fault Refusal :=
  s.finish (s.aluResult rd ((upperImmediate s.cfg imm).map fun u => s.instrPc + u))


end Sys2Proof.Machine
end

