-- ==== Sys2Proof/Machine/HostOps.lean ====
section
/-! DEFINITION. Fetch and the host operations (40_engine.md): a step of a run, the step interface, one ad-hoc instruction,
load, run, dump and reconstruct. Step.lean only calls what stands here. -/

namespace Sys2Proof.Machine

/-- Runs a fetched record (R141, R142): a reserved opcode raises `UnknownOpcode` (R113), an ill-formed DIR is refused
(R114). A DIR holds no mnemonic, so the error records an empty one (log 19). -/
def runRecord (rec : Record) (s : State) : Host.Outcome State Fault Refusal :=
  match decodeDir s.cfg rec.dir with
  | .ok i => exec i s
  | .error (.reservedOpcode _) => .next (s.takeError (.decode (.unknownOpcode [])))
  | .error .illFormed => .refused .illFormedDir

/-- One turn of the run loop: past the end the run ends normally, else the record at pc runs (R144, R147). -/
def runTurn (s : State) : Host.Outcome State Fault Refusal :=
  match s.program[s.pc.toNat]? with
  | none => .next s.endRun
  | some rec => runRecord rec (s.serve .run)

/-- The operation is over: the state of a next outcome serves a run again. -/
def doneServing (o : Host.Outcome State Fault Refusal) : Host.Outcome State Fault Refusal :=
  match o with
  | .next t => .next (t.serve .run)
  | .fault r => .fault r
  | .refused r => .refused r

/-- The step interface at a pc (R153): fetch fails with `PcOutOfRange(pc)` at or past `len` (R141), with an empty text
(log 26). -/
def hostStep (p : Word) (s : State) : Host.Outcome State Fault Refusal :=
  doneServing <|
    match s.program[p.toNat]? with
    | none => .next ((s.serve (.step p)).takeError (.pcOutOfRange p.toNat))
    | some rec => runRecord rec (s.serve (.step p))

/-- Execute-one-instruction (R152): a decode error is returned without a pc; a decoded instruction runs once, with the
free pc ADHOC_PC. A line that holds no instruction does nothing (log 16). -/
def hostExecute (line : List Char) (s : State) : Host.Outcome State Fault Refusal :=
  match decodeLine s.cfg line with
  | .ignored => .next { s with reply := some .ignoredLine }
  | .error e => .next { s with reply := some (.error ⟨.decode e, none, none, line⟩) }
  | .instr i => doneServing (exec i { s with served := .adhoc (Config.adhocPc s.draws) line, draws := s.draws + 1 })

/-- Load (R150): the whole text decodes and replaces the program store, or the store becomes empty and the first failing
line is reported. Either way the store is valid. DESIGN CHOICE (log 24): a load that succeeds answers the number of
instructions. -/
def hostLoad (text : List Char) (s : State) : State :=
  match decodeProgram s.cfg text with
  | .ok records => { s with program := records, progValid := true, reply := some (.loaded records.length) }
  | .error e =>
    { s with program := [], progValid := true, reply := some (.error ⟨.decode e.kind, none, some e.line, e.text⟩) }

/-- The start of a run (R147): only the pc is reset (R362). A program of length 0 ends before its first step (R144). -/
def startRun (s : State) : State :=
  if s.program.isEmpty then ({ s with status := .running, pc := 0 } : State).endRun
  else { s with status := .running, pc := 0 }

/-- Reconstruct machine (R360): a fresh machine with the same parameters. What is no part of the machine stays: the
host's waiting operations, the port's script, and what has been sent and drawn (log 10). DESIGN CHOICE (log 27): it answers
`ok`, for the spec names no answer. -/
def reconstruct (s : State) : State :=
  { State.construct s.cfg with
    inputs := s.inputs, portScript := s.portScript, requests := s.requests, draws := s.draws, reply := some .ok }

/-- One host operation, carried to its end but for a run, which `runTurn` goes on with (R155). -/
def hostOp (op : HostOp) (s : State) : Host.Outcome State Fault Refusal :=
  match op with
  | .loadProgram text => .next (hostLoad text s)
  | .run => if s.progValid then .next (startRun s) else .refused .noProgram
  | .step p => hostStep p s
  | .execute line => hostExecute line s
  | .dumpRegisters => .next { s with reply := some (.registers s.dumpRegisters) }
  | .reconstruct => .next (reconstruct s)

/-- Between host operations the engine is idle (R343): it takes the oldest one waiting, or stays as it is. -/
def idleTurn (s : State) : Host.Outcome State Fault Refusal :=
  match s.inputs with
  | [] => .next s
  | op :: rest => hostOp op { s with inputs := rest }

/-- One step of the machine: a turn of the run in progress, or a host operation. -/
def machineTurn (s : State) : Host.Outcome State Fault Refusal :=
  match s.status with
  | .running => runTurn s
  | .idle => idleTurn s
  | .halted => idleTurn s
  | .failed _ => idleTurn s

/-- A record with the given bits stands where the next turn of the run fetches: at pc if the program reaches so far, else
as a program of one record at index 0 (log 21). -/
def placeRecord (dir : Dir) (s : State) : State :=
  if s.pc.toNat < s.program.length then
    { s with program := s.program.set s.pc.toNat ⟨dir, []⟩, progValid := true, status := .running }
  else { s with program := [⟨dir, []⟩], progValid := true, status := .running, pc := 0 }

end Sys2Proof.Machine
end

