-- ==== Sys2Proof/Machine/Step.lean ====
section
/-! DEFINITION. One step of the machine (40_engine.md), and the placing of an instruction where the next step fetches. -/

namespace Sys2Proof.Machine

/-- One step: one turn of a run (one instruction, R369), or one host operation. -/
def step (s : State) : Host.Outcome State Fault Refusal := machineTurn s

/-- `s` with the instruction whose bits are `w` (those above `nbits` zero) where the next step fetches, and a run in
progress, so that the next step runs it (log 21). -/
def State.withFetchWord (s : State) (nbits w : Nat) : State := placeRecord (BitVec.ofNat 96 (w % 2 ^ nbits)) s

end Sys2Proof.Machine
end

