-- ==== Sys2Proof/Safety.lean ====
section
/-! DEFINITION. The words claims are stated in: what an instruction of a run leaves as it was, how it completes and how it
fails, and the invariant every step keeps. -/

namespace Sys2Proof.Machine

/-! ### What stays as it was -/

/-- Every register reads as before, and the register file has as many registers. -/
def SameRegs (s t : State) : Prop := t.regs.length = s.regs.length ∧ ∀ r : RegIdx, t.readReg r = s.readReg r

/-- Every byte of data memory reads as before. -/
def SameMem (s t : State) : Prop := ∀ a : Nat, t.mem.read a = s.mem.read a

/-- Parameters, program store, its validity mark, the host's waiting operations and the operation being served are as
before: no instruction changes them. -/
def SameStore (s t : State) : Prop :=
  t.cfg = s.cfg ∧ t.program = s.program ∧ t.progValid = s.progValid ∧ t.inputs = s.inputs ∧ t.served = s.served

/-- Nothing was sent to the quantum port, no answer of it used and no free value drawn. -/
def SamePort (s t : State) : Prop :=
  t.portScript = s.portScript ∧ t.requests = s.requests ∧ t.draws = s.draws

/-! ### How an instruction of a run ends -/

/-- The run goes on at index `n`, or has ended there because `n` is not below `len` (R144, R147). -/
def GoesTo (s t : State) (n : Int) : Prop :=
  t.pc = u64 n ∧
    if (s.len : Int) ≤ n then t.status = .halted ∧ t.reply = some .ok
    else t.status = s.status ∧ t.reply = s.reply

/-- Of the registers only `rd` is written, with `v`; a write to x0 is discarded (R33). -/
def WritesReg (s t : State) (rd : RegIdx) (v : Word) : Prop :=
  t.regs.length = s.regs.length ∧ t.readReg rd = (if rd = 0 then 0 else v) ∧
    ∀ r : RegIdx, r ≠ rd → t.readReg r = s.readReg r

/-- Of data memory only the `n` bytes from `a` are written, with the low 8n bits of `v`, least significant byte first
(R66). -/
def WritesBytes (s t : State) (a n : Nat) (v : Word) : Prop :=
  (∀ k : Nat, k < n → t.mem.read (a + k) = v.extractLsb' (8 * k) 8) ∧
    ∀ b : Nat, b < a ∨ a + n ≤ b → t.mem.read b = s.mem.read b

/-- `i` completes: it writes `v` to `rd`, nothing else of the machine, and the run goes on at `pc + 1` (R142, R143). -/
def CompletesWith (i : Instr) (s : State) (rd : RegIdx) (v : Word) : Prop :=
  ∃ t, exec i s = .next t ∧ WritesReg s t rd v ∧ SameMem s t ∧ SameStore s t ∧ SamePort s t ∧
    GoesTo s t (s.pc.toNat + 1)

/-- `i` completes: it writes no register and no memory, and the run goes on at `n`. -/
def OnlyGoesTo (i : Instr) (s : State) (n : Int) : Prop :=
  ∃ t, exec i s = .next t ∧ SameRegs s t ∧ SameMem s t ∧ SameStore s t ∧ SamePort s t ∧ GoesTo s t n

/-- `i` completes: it writes the low 8n bits of `v` to the `n` bytes from `a`, nothing else of the machine, and the run
goes on at `pc + 1`. -/
def StoresAt (i : Instr) (s : State) (a n : Nat) (v : Word) : Prop :=
  ∃ t, exec i s = .next t ∧ SameRegs s t ∧ WritesBytes s t a n v ∧ SameStore s t ∧ SamePort s t ∧
    GoesTo s t (s.pc.toNat + 1)

/-- `t` is `s` with the run failed by `e` at the instruction at pc: nothing is written, pc keeps its index, the status is
`Failed(err)` and the host has the record (R142, R148, R331, R332). -/
def FailedBy (s t : State) (e : ErrorKind) : Prop :=
  SameRegs s t ∧ SameMem s t ∧ SameStore s t ∧ t.pc = s.pc ∧
    ∃ err : ErrorRecord, err.kind = e ∧ err.pc = some s.pc ∧ t.status = .failed err ∧ t.reply = some (.error err)

/-- `i` raises `e`, and the quantum port is not called. -/
def Raises (i : Instr) (s : State) (e : ErrorKind) : Prop :=
  ∃ t, exec i s = .next t ∧ FailedBy s t e ∧ SamePort s t

/-- The port was sent `q`, and its scripted answer was used up (R300, R301). -/
def SentWithScript (s t : State) (q : QReq) (rest : List PortAnswer) : Prop :=
  t.requests = s.requests ++ [q] ∧ t.portScript = rest ∧ t.draws = s.draws

/-! ### The shapes of the instruction rules -/

/-- The opcode field of the instruction's DIR (R110, R112). -/
def OpcodeOf (i : Instr) (c : BitVec 8) : Prop := (encode i).extractLsb' 0 8 = c

/-- `i` shifts by `ShAmt(amount)` (R170): `value n` is the result for an amount `n` in [0, 63], `saturated` the one for
"64 or more". The MODEL's own setting `anyValue` is not spoken of. -/
def ShiftsBy (i : Instr) (s : State) (rd : RegIdx) (amount : Int) (value : Nat → Word) (saturated : Word) : Prop :=
  (0 ≤ amount ∧ amount ≤ 63 → CompletesWith i s rd (value amount.toNat)) ∧
    (amount < 0 ∨ 63 < amount →
      (s.cfg.shiftOversize = .refuse → exec i s = .fault (.unmodelled .shiftAmount s.pc)) ∧
        (s.cfg.shiftOversize = .mask6 → CompletesWith i s rd (value (amount % 64).toNat)) ∧
        (s.cfg.shiftOversize = .goSaturate →
          (amount < 0 → exec i s = .fault (.unmodelled .negativeShift s.pc)) ∧
            (0 ≤ amount → CompletesWith i s rd saturated)))

/-- `i` completes a jump to `n`: the link `pc + 1` goes to `rd`, nothing else is written (R240, R241). -/
def JumpsTo (i : Instr) (s : State) (rd : RegIdx) (n : Int) : Prop :=
  ∃ t, exec i s = .next t ∧ WritesReg s t rd (u64 (s.pc.toNat + 1)) ∧ SameMem s t ∧ SameStore s t ∧ SamePort s t ∧
    GoesTo s t n

/-- The run has ended by a Halt: pc keeps the index of the instruction (R146, R147; log 12). -/
def HaltedHere (s t : State) : Prop :=
  SameMem s t ∧ SameStore s t ∧ SamePort s t ∧ t.pc = s.pc ∧ t.status = .halted ∧ t.reply = some .ok

/-- `i` is a jump to the target `n` that writes the link to `rd`: it completes for a target in [0, len]; outside, it raises
`PcOutOfRange` under `JUMP_PAST_END = fault`, and under `halt` commits the link and ends the run by a Halt (R146). -/
def JumpOrRaise (i : Instr) (s : State) (rd : RegIdx) (n : Int) : Prop :=
  (0 ≤ n ∧ n ≤ s.len → JumpsTo i s rd n) ∧
    (n < 0 ∨ (s.len : Int) < n →
      (s.cfg.jumpPastEnd = .fault → Raises i s (.pcOutOfRange n)) ∧
        (s.cfg.jumpPastEnd = .halt →
          ∃ t, exec i s = .next t ∧ WritesReg s t rd (u64 (s.pc.toNat + 1)) ∧ HaltedHere s t))

/-- `i` is a branch taken where `cond` holds (R242); a taken branch to a target outside [0, len] raises `PcOutOfRange` under
`JUMP_PAST_END = fault`, and under `halt` ends the run by a Halt (R146). -/
def BranchesOn (i : Instr) (s : State) (cond : Prop) (imm : Int) : Prop :=
  (¬cond → OnlyGoesTo i s (s.pc.toNat + 1)) ∧
    (cond → 0 ≤ (s.pc.toNat : Int) + imm ∧ (s.pc.toNat : Int) + imm ≤ s.len → OnlyGoesTo i s (s.pc.toNat + imm)) ∧
    (cond → (s.pc.toNat : Int) + imm < 0 ∨ (s.len : Int) < s.pc.toNat + imm →
      (s.cfg.jumpPastEnd = .fault → Raises i s (.pcOutOfRange (s.pc.toNat + imm))) ∧
        (s.cfg.jumpPastEnd = .halt → ∃ t, exec i s = .next t ∧ SameRegs s t ∧ HaltedHere s t))

/-- `i` loads `n` bytes from `x[rs1] + imm` to `rd`, where the value is `value` of the address: it completes in bounds,
and raises `MemoryOutOfBounds` else (R63, R270, R271). -/
def LoadsOrRaises (i : Instr) (s : State) (rd rs1 : RegIdx) (imm : Int) (n : Nat) (value : Nat → Word) : Prop :=
  let a : Int := (s.readReg rs1).toNat + imm
  (0 ≤ a ∧ a + n ≤ s.cfg.memCapacity → CompletesWith i s rd (value a.toNat)) ∧
    (a < 0 ∨ a + n > s.cfg.memCapacity → Raises i s (.memoryOutOfBounds a n))

/-- `i` stores the low 8n bits of `x[rs2]` to the `n` bytes from `x[rs1] + imm`: it completes in bounds, and raises
`MemoryOutOfBounds` else (R63, R270, R271). -/
def StoresOrRaises (i : Instr) (s : State) (rs2 rs1 : RegIdx) (imm : Int) (n : Nat) : Prop :=
  let a : Int := (s.readReg rs1).toNat + imm
  (0 ≤ a ∧ a + n ≤ s.cfg.memCapacity → StoresAt i s a.toNat n (s.readReg rs2)) ∧
    (a < 0 ∨ a + n > s.cfg.memCapacity → Raises i s (.memoryOutOfBounds a n))

/-- `i` fails the run by `e`, the error of the port's scripted answer to `q` (R301). -/
def FailsFromPort (i : Instr) (q : QReq) (s : State) (rest : List PortAnswer) (e : ErrorKind) : Prop :=
  ∃ t, exec i s = .next t ∧ FailedBy s t e ∧ SentWithScript s t q rest

/-- A scripted answer `Fail(k)` to `q` makes `i` raise k, for each of R301's three kinds (R325, R326, R328). -/
def PassesOnFailures (i : Instr) (q : QReq) (s : State) (rest : List PortAnswer) : Prop :=
  (∀ r, s.portScript = .fail (.uninitializedQuantumRegister r) :: rest →
      FailsFromPort i q s rest (.uninitializedQuantumRegister r)) ∧
    (s.portScript = .fail .unsupportedControlCount :: rest → FailsFromPort i q s rest .unsupportedControlCount) ∧
    (s.portScript = .fail .quantumPortFailure :: rest → FailsFromPort i q s rest .quantumPortFailure)

/-- The run has failed by one of the port's three errors (R301). -/
def FailedByPort (s t : State) : Prop :=
  (∃ r, FailedBy s t (.uninitializedQuantumRegister r)) ∨ FailedBy s t .unsupportedControlCount ∨
    FailedBy s t .quantumPortFailure

/-- `i` sends `q` to the port and does with the scripted answer what R302, R303 and R305 say. -/
def CallsPort (i : Instr) (q : QReq) (s : State) : Prop :=
  ∀ rest,
    (s.portScript = .done :: rest → ∃ t, exec i s = .next t ∧ SameRegs s t ∧ SameMem s t ∧ SameStore s t ∧
      SentWithScript s t q rest ∧ GoesTo s t (s.pc.toNat + 1)) ∧
    PassesOnFailures i q s rest ∧
    (∀ b, s.portScript = .bit b :: rest → exec i s = .fault (.unmodelled .portResponse s.pc)) ∧
    (∀ v, s.portScript = .other v :: rest → exec i s = .fault (.unmodelled .portResponse s.pc))

/-- The step of `s` carries out an ad-hoc jump to the unchecked target `n`: the link ADHOC_PC + 1 goes to `rd`, no byte is
written and the host receives `n` (R152). -/
def AdhocJumpsTo (s : State) (rd : RegIdx) (n : Int) : Prop :=
  ∃ t, step s = .next t ∧ WritesReg s t rd (u64 ((Config.adhocPc s.draws).toNat + 1)) ∧ SameMem s t ∧
    t.reply = some (.next (.pc n))

/-- The step of `s` carries out an ad-hoc branch taken where `cond` holds, its target unchecked: nothing is written and the
host receives the next pc (R152, R242). -/
def AdhocBranchesOn (s : State) (cond : Prop) (imm : Int) : Prop :=
  ∃ t, step s = .next t ∧ SameRegs s t ∧ SameMem s t ∧
    (cond → t.reply = some (.next (.pc ((Config.adhocPc s.draws).toNat + imm)))) ∧
    (¬cond → t.reply = some (.next (.pc ((Config.adhocPc s.draws).toNat + 1))))

/-- A request with a free answer was sent (QPORT): it is recorded, and one free value is drawn. -/
def SentWithDraw (s t : State) (q : QReq) : Prop :=
  t.requests = s.requests ++ [q] ∧ t.portScript = s.portScript ∧ t.draws = s.draws + 1

/-- With no answer fixed, `i` sends `q` and either completes without a write or fails the run by an error of the port. -/
def DrawsFromPort (i : Instr) (q : QReq) (s : State) : Prop :=
  ∃ t, exec i s = .next t ∧ SentWithDraw s t q ∧ SameMem s t ∧ SameStore s t ∧
    ((SameRegs s t ∧ GoesTo s t (s.pc.toNat + 1)) ∨ FailedByPort s t)

/-- The register an instruction's format gives it to write (R101): none for branches, stores and the quantum instructions
that leave every scalar register (R302, R303, R305). -/
def destination (i : Instr) : Option RegIdx :=
  match i with
  | .add rd .. | .sub rd .. | .and rd .. | .or rd .. | .xor rd .. | .sll rd .. | .srl rd .. | .sra rd .. => some rd
  | .slt rd .. | .sltu rd .. | .addi rd .. | .slli rd .. | .srli rd .. | .srai rd .. | .andi rd .. => some rd
  | .ori rd .. | .xori rd .. | .slti rd .. | .sltiu rd .. | .lui rd .. | .auipc rd .. | .jal rd .. => some rd
  | .jalr rd .. | .lw rd .. | .lh rd .. | .lb rd .. | .lwu rd .. | .lhu rd .. | .lbu rd .. => some rd
  | .qmeasure rd .. => some rd
  | .beq .. | .bne .. | .blt .. | .bge .. | .bltu .. | .bgeu .. | .sw .. | .sh .. | .sb .. => none
  | .qinit .. | .qapply .. | .qentangle .. => none

/-- The base register, the offset and the width in bytes of a store, none for an instruction that stores nothing (R67,
R278 to R280). -/
def storeOperand (i : Instr) : Option (RegIdx × Int × Nat) :=
  match i with
  | .sw _ rs1 imm => some (rs1, imm, 4)
  | .sh _ rs1 imm => some (rs1, imm, 2)
  | .sb _ rs1 imm => some (rs1, imm, 1)
  | .add .. | .sub .. | .and .. | .or .. | .xor .. | .sll .. | .srl .. | .sra .. | .slt .. | .sltu .. => none
  | .addi .. | .slli .. | .srli .. | .srai .. | .andi .. | .ori .. | .xori .. | .slti .. | .sltiu .. => none
  | .lui .. | .auipc .. | .jal .. | .jalr .. | .beq .. | .bne .. | .blt .. | .bge .. | .bltu .. | .bgeu .. => none
  | .lw .. | .lh .. | .lb .. | .lwu .. | .lhu .. | .lbu .. => none
  | .qinit .. | .qapply .. | .qmeasure .. | .qentangle .. => none

/-- Every byte outside the `n` bytes from `a` reads as before, and if some byte differs those n bytes lie in data memory
(R63, R66). -/
def WritesAtMost (s t : State) (a : Int) (n : Nat) : Prop :=
  (∀ b : Nat, (b : Int) < a ∨ a + n ≤ b → t.mem.read b = s.mem.read b) ∧
    (SameMem s t ∨ (0 ≤ a ∧ a + n ≤ s.cfg.memCapacity))

/-- A line with an empty comma field: two commas with only whitespace between, or a comma as the first or the last character
that is not whitespace (R92). -/
def EmptyCommaField (line : List Char) : Prop :=
  (∃ a b c, line = a ++ ',' :: (b ++ ',' :: c) ∧ b.all isBlank = true) ∨
    ∃ a c, line = a ++ ',' :: c ∧ (a.all isBlank = true ∨ c.all isBlank = true)

/-- A reserved opcode id (R113). -/
abbrev ReservedOpc (c : Nat) : Prop :=
  c = 0x00 ∨ (0x0B ≤ c ∧ c ≤ 0x0F) ∨ (0x19 ≤ c ∧ c ≤ 0x1F) ∨ (0x22 ≤ c ∧ c ≤ 0x27) ∨ (0x2A ≤ c ∧ c ≤ 0x2F) ∨
    (0x36 ≤ c ∧ c ≤ 0x3F) ∨ (0x46 ≤ c ∧ c ≤ 0x47) ∨ (0x4B ≤ c ∧ c ≤ 0x4F) ∨ (0x54 ≤ c ∧ c ≤ 0xFF)

/-- The fields of a well-formed DIR (R114): its opcode is in R112, its register fields are below NREG, its immediate is in
range, and every field that its format (R101) does not set is 0. -/
abbrev WellFormedFields (p : Params) (opc rd rs1 rs2 : Nat) (imm : Int) : Prop :=
  ¬ReservedOpc opc ∧ rd < p.nreg ∧ rs1 < p.nreg ∧ rs2 < p.nreg ∧ p.immMin ≤ imm ∧ imm ≤ p.immMax ∧
    -- R-type, qentangle
    (opc ≤ 0x0A ∨ opc = 0x53 → imm = 0) ∧
    -- I-type, jalr, loads, qapply
    ((0x10 ≤ opc ∧ opc ≤ 0x18) ∨ opc = 0x29 ∨ (0x40 ≤ opc ∧ opc ≤ 0x45) ∨ opc = 0x51 → rs2 = 0) ∧
    -- U-type, jal
    (opc = 0x20 ∨ opc = 0x21 ∨ opc = 0x28 → rs1 = 0 ∧ rs2 = 0) ∧
    -- B-type, stores
    ((0x30 ≤ opc ∧ opc ≤ 0x35) ∨ (0x48 ≤ opc ∧ opc ≤ 0x4A) → rd = 0) ∧
    -- qinit, qmeasure
    (opc = 0x50 → rs1 = 0 ∧ rs2 = 0 ∧ imm = 0) ∧ (opc = 0x52 → rs2 = 0 ∧ imm = 0)

/-- A well-formed DIR: its fields lie as R110 says. -/
abbrev WellFormedDir (p : Params) (w : Dir) : Prop :=
  WellFormedFields p (w.extractLsb' 0 8).toNat (w.extractLsb' 8 8).toNat (w.extractLsb' 16 8).toNat
    (w.extractLsb' 24 8).toNat (w.extractLsb' 32 64).toInt

/-! ### The invariant of a machine instance -/

/-- What holds of every state a machine instance reaches. -/
structure State.Inv (s : State) : Prop where
  /-- The parameters are in the numeric ranges of R8. -/
  params : s.cfg.InRange
  /-- There are NREG registers (R30). -/
  regs : s.regs.length = s.cfg.nreg
  /-- Data memory is in its canonical form. -/
  mem : s.mem.wf = true
  /-- Data memory has no byte at MEM_CAPACITY or above (R72). -/
  within : s.mem.within s.cfg.memCapacity = true
  /-- The program store holds well-formed records only (R114, R115). -/
  store : ∀ rec ∈ s.program, ∃ i, decodeDir s.cfg rec.dir = .ok i
  /-- A run in progress is at an instruction of a valid program store (R144, R147, R149). -/
  running : s.status = .running → s.pc.toNat < s.program.length ∧ s.progValid = true
  /-- Between steps no host operation's instruction is half done (R155). -/
  served : s.served = .run

/-- No parameter of the instance is set so that a form has no meaning: none is `refuse`, and not `goSaturate`, under which
a negative shift amount has none. Beside the spec's own settings (mask6, wide64, old_rs1, new_rs1) this admits the
MODEL's, `anyValue` and `either` (logs 2, 3). -/
def RunsEveryForm (p : Params) : Prop :=
  (p.shiftOversize = .mask6 ∨ p.shiftOversize = .anyValue) ∧ p.uImmMode ≠ .refuseOutside20Bit ∧
    p.jalrLinkOrder ≠ .refuse

/-- Every answer fixed for the port is `Done` or `Fail`, which every quantum instruction accepts (R301). `Bit`, which only
qmeasure accepts, is left out. -/
def State.PortOnContract (s : State) : Prop :=
  ∀ a ∈ s.portScript, a = .done ∨ ∃ k, a = .fail k

end Sys2Proof.Machine
end

