-- ==== Sys2Proof/Certificates/Slice0/Obligations.lean ====
section
/-! DEFINITION. The statements about the engine. `s.served = .run` says that the instruction is one of a run; the step
interface and ad-hoc instructions have statements of their own. -/

open Sys2Proof Sys2Proof.Machine

/-! ### Encoding and decoding -/

/-- R110 to R114: the DIR of a well-formed instruction decodes to that instruction, for all 42 instructions and every
operand value NREG and the immediate range admit. -/
def Obligations.DirOfInstrDecodesBack : Prop :=
  ∀ (p : Params) (i : Instr), p.InRange → WellFormed p i = true → decodeDir p (encode i) = .ok i

/-- R114: a DIR that decodes holds a well-formed instruction, and is that instruction's DIR bit for bit, so that every
field its format does not set is 0. -/
def Obligations.DecodedDirIsExact : Prop :=
  ∀ (p : Params) (w : Dir) (i : Instr), decodeDir p w = .ok i → WellFormed p i = true ∧ encode i = w

/-- R113: exactly the reserved opcode ids are rejected as such; no instruction's DIR has one; and a DIR with one that a
run reaches fails the run with `UnknownOpcode`. -/
def Obligations.ReservedOpcodesFail : Prop :=
  (∀ (p : Params) (w : Dir), ReservedOpc (w.extractLsb' 0 8).toNat ↔
      decodeDir p w = .error (.reservedOpcode (w.extractLsb' 0 8))) ∧
    (∀ i : Instr, ¬ReservedOpc ((encode i).extractLsb' 0 8).toNat) ∧
    ∀ (s : State) (rec : Record), s.status = .running → s.served = .run → s.program[s.pc.toNat]? = some rec →
      ReservedOpc (rec.dir.extractLsb' 0 8).toNat →
      ∃ t m, step s = .next t ∧ FailedBy s t (.decode (.unknownOpcode m)) ∧ SamePort s t

/-- R114: exactly the well-formed DIRs have an instruction; a line's DIR is well formed; an ill-formed DIR whose opcode is
not reserved is rejected by the decoder, and a run that reaches one is refused. -/
def Obligations.IllFormedDirRefused : Prop :=
  (∀ (p : Params) (w : Dir), p.InRange → ((∃ i, decodeDir p w = .ok i) ↔ WellFormedDir p w)) ∧
    (∀ (p : Params) (line : List Char) (i : Instr), p.InRange → decodeLine p line = .instr i →
      WellFormedDir p (encode i)) ∧
    ∀ (s : State) (rec : Record), s.cfg.InRange → s.status = .running → s.program[s.pc.toNat]? = some rec →
      ¬ReservedOpc (rec.dir.extractLsb' 0 8).toNat → ¬WellFormedDir s.cfg rec.dir →
      decodeDir s.cfg rec.dir = .error .illFormed ∧ step s = .refused .illFormedDir

/-- R110, R112: records of 95_test_vectors.md (V-D-1, V-D-6, V-D-9, V-D-11, V-D-13) decode to the lines they stand
beside. -/
def Obligations.ListedRecordsDecode : Prop :=
  decodeDir specDefaults 0x00000000000000000201_0301#96 = .ok (.add 3 1 2) ∧
    decodeDir specDefaults 0xFFFFFFFFFFFFFFF8_05020048#96 = .ok (.sw 5 2 (-8)) ∧
    decodeDir specDefaults 0xFFFFFFFFFFFFFFFC_00000128#96 = .ok (.jal 1 (-4)) ∧
    decodeDir specDefaults 0x0000000000012345_00000220#96 = .ok (.lui 2 74565) ∧
    decodeDir specDefaults 0x0000000000000003_00010051#96 = .ok (.qapply 0 1 3)

/-- R118: decoding the printed text of a well-formed instruction gives that instruction, for all 42 instructions. -/
def Obligations.PrintedTextDecodesBack : Prop :=
  ∀ (p : Params) (i : Instr), p.InRange → WellFormed p i = true → decodeLine p (printInstr i) = .instr i

/-- R115: a line gives only well-formed instructions. -/
def Obligations.DecodedLineIsWellFormed : Prop :=
  ∀ (p : Params) (line : List Char) (i : Instr), p.InRange → decodeLine p line = .instr i → WellFormed p i = true

/-- R91: a line of whitespace only and a line whose first character is `#` are ignored; a line whose first character that
is not whitespace is a `#`, with whitespace before it, fails with `ParseError`, whatever follows. -/
def Obligations.BlankAndCommentLines : Prop :=
  ∀ (p : Params) (blanks rest : List Char), blanks.all isBlank = true →
    decodeLine p blanks = .ignored ∧ decodeLine p ('#' :: rest) = .ignored ∧
      (blanks ≠ [] → decodeLine p (blanks ++ '#' :: rest) = .error (.parseError .indentedComment))

/-- R98, R101: a line whose mnemonic is of the format and whose operand tokens are not as many as the format takes fails
with `ParseError` naming the expected number, before any operand is looked at (R99). -/
def Obligations.OperandCountChecked : Prop :=
  ∀ (p : Params) (line name : List Char) (operands : List (List Char)) (expected : Nat),
    line.head? ≠ some '#' → (line.dropWhile isBlank).head? ≠ some '#' → commasOk true line = true →
    tokens line = name :: operands →
    (expected = 3 ∧ name ∈ (["add", "sub", "and", "or", "xor", "sll", "srl", "sra", "slt", "sltu", "addi", "slli",
        "srli", "srai", "andi", "ori", "xori", "slti", "sltiu", "jalr", "beq", "bne", "blt", "bge", "bltu", "bgeu",
        "qapply", "qentangle"].map String.toList) ∨
      expected = 2 ∧ name ∈ (["lui", "auipc", "jal", "lw", "lh", "lb", "lwu", "lhu", "lbu", "sw", "sh", "sb",
        "qmeasure"].map String.toList) ∨
      expected = 1 ∧ name = "qinit".toList) →
    operands.length ≠ expected → decodeLine p line = .error (.parseError (.operandCount expected))

/-- R92, R99: a line that is no comment (R91) fails with `ParseError` for an empty field exactly if two of its commas have
only whitespace between them or its first or last character that is not whitespace is a comma, whatever its tokens are. On a
line that is not blank either, `commasOk`, the premise of the statements about tokens, fails exactly there. -/
def Obligations.EmptyCommaFieldFails : Prop :=
  ∀ (p : Params) (line : List Char), line.head? ≠ some '#' → (line.dropWhile isBlank).head? ≠ some '#' →
    (decodeLine p line = .error (.parseError .emptyField) ↔ EmptyCommaField line) ∧
      (line.all isBlank = false → (commasOk true line = false ↔ EmptyCommaField line))

/-- R93, R99: on a line that is no comment (R91) and has no empty comma field (R92), a first token that is not, character
for character, one of the 42 mnemonics fails with `UnknownOpcode`, whatever stands before it or follows it. -/
def Obligations.OtherMnemonicsFail : Prop :=
  ∀ (p : Params) (line m : List Char) (operands : List (List Char)),
    line.head? ≠ some '#' → (line.dropWhile isBlank).head? ≠ some '#' → commasOk true line = true →
    tokens line = m :: operands →
    m ∉ (["add", "sub", "and", "or", "xor", "sll", "srl", "sra", "slt", "sltu", "addi", "slli", "srli", "srai", "andi",
      "ori", "xori", "slti", "sltiu", "lui", "auipc", "jal", "jalr", "beq", "bne", "blt", "bge", "bltu", "bgeu", "lw",
      "lh", "lb", "lwu", "lhu", "lbu", "sw", "sh", "sb", "qinit", "qapply", "qmeasure", "qentangle"].map String.toList) →
    decodeLine p line = .error (.unknownOpcode m)

/-- R94: `x` and decimal digits, leading zeros accepted, is the register of that value if it is below NREG; any other
value and any other token fails with `RegisterOutOfRange`. -/
def Obligations.RegisterTokens : Prop :=
  ∀ p : Params, p.InRange →
    (∀ zeros n : Nat, n < p.nreg →
        parseRegister p ('x' :: (List.replicate zeros '0' ++ printNat n)) = .ok (BitVec.ofNat 8 n)) ∧
      (∀ zeros n : Nat, p.nreg ≤ n →
        parseRegister p ('x' :: (List.replicate zeros '0' ++ printNat n)) =
          .error (.registerOutOfRange ('x' :: (List.replicate zeros '0' ++ printNat n)))) ∧
      ∀ tok : List Char, (∀ ds, tok = 'x' :: ds → ds = [] ∨ ∃ c ∈ ds, c.toNat < 48 ∨ 57 < c.toNat) →
        parseRegister p tok = .error (.registerOutOfRange tok)

/-- R95, R96: a signed decimal integer, leading zeros allowed, is the immediate of that value if it lies in
[IMM_MIN, IMM_MAX], and fails with `ParseError` outside; a token that is no optional `-` and digits fails with
`ParseError`. -/
def Obligations.ImmediateTokens : Prop :=
  ∀ p : Params,
    (∀ zeros n : Nat, parseImmediate p (List.replicate zeros '0' ++ printNat n) =
        if p.immMin ≤ (n : Int) ∧ (n : Int) ≤ p.immMax then .ok (n : Int)
        else .error (.parseError (.immediateOutOfRange n))) ∧
      (∀ zeros n : Nat, parseImmediate p ('-' :: (List.replicate zeros '0' ++ printNat n)) =
        if p.immMin ≤ -(n : Int) ∧ -(n : Int) ≤ p.immMax then .ok (-(n : Int))
        else .error (.parseError (.immediateOutOfRange (-(n : Int))))) ∧
      ∀ tok ds : List Char, (tok = ds ∧ tok.head? ≠ some '-' ∨ tok = '-' :: ds) →
        (ds = [] ∨ ∃ c ∈ ds, c.toNat < 48 ∨ 57 < c.toNat) →
        parseImmediate p tok = .error (.parseError (.badImmediate tok))

/-- R150: a load whose lines all decode or are ignored makes the program store the records of the instruction lines in
order; a load with a failing line makes it empty and reports the first failing line with its 1-based number. Either way
the store is valid, and no register, no memory byte and no pc changes. That a load which succeeds answers the number of
records is the MODEL's choice (DESIGN CHOICE, log 24), no rule of the spec. -/
def Obligations.LoadIsAtomic : Prop :=
  ∀ (s : State) (text : List Char) (rest : List HostOp), s.status ≠ .running → s.inputs = .loadProgram text :: rest →
    ∃ t, step s = .next t ∧ t.progValid = true ∧ t.regs = s.regs ∧ t.mem = s.mem ∧ t.pc = s.pc ∧
      t.status = s.status ∧ t.inputs = rest ∧ t.cfg = s.cfg ∧
      ((∀ l ∈ splitLines text, ∀ e, decodeLine s.cfg l ≠ .error e) →
        t.program = (splitLines text).filterMap (fun l =>
          match decodeLine s.cfg l with
          | .instr i => some ⟨encode i, l⟩
          | .ignored => none
          | .error _ => none) ∧ t.reply = some (.loaded t.program.length)) ∧
      ∀ (k : Nat) (l : List Char) (e : DecodeError), (splitLines text)[k]? = some l → decodeLine s.cfg l = .error e →
        (∀ l' ∈ (splitLines text).take k, ∀ e', decodeLine s.cfg l' ≠ .error e') →
        t.program = [] ∧ t.reply = some (.error ⟨.decode e, none, some (k + 1), l⟩)

/-! ### Registers and memory -/

/-- R32, R33: x0 reads 0 and a write to it changes nothing; another register reads the value stored in it, and the value
written once written; a write leaves every other register. The dump gives the values read, in index order. -/
def Obligations.RegisterReadWrite : Prop :=
  ∀ (s : State) (i : RegIdx) (v : Word),
    s.readReg 0 = 0 ∧ s.writeReg 0 v = s ∧ (∀ w, i ≠ 0 → s.regs[i.toNat]? = some w → s.readReg i = w) ∧
      (i ≠ 0 → i.toNat < s.regs.length → (s.writeReg i v).readReg i = v) ∧
      (∀ j : RegIdx, j ≠ i → (s.writeReg i v).readReg j = s.readReg j) ∧
      s.dumpRegisters.length = s.regs.length ∧
      ∀ j : RegIdx, j.toNat < s.regs.length → s.dumpRegisters[j.toNat]? = some (s.readReg j)

/-- R65: the value read is the sum of the bytes, each times 2^8 to the power of its place. -/
def Obligations.MemoryReadsLittleEndian : Prop :=
  ∀ (m : Memory) (a n : Nat),
    m.readLE a n = ((List.range n).map fun k => (m.read (a + k)).toNat * 2 ^ (8 * k)).sum

/-- R65, R66, R70: what a store wrote reads back byte by byte at every width: the j bytes from the k-th byte of an n-byte
store of v hold bits 8(k+j)-1 to 8k of v. -/
def Obligations.LoadReadsStoredBytes : Prop :=
  ∀ (m : Memory) (a n k j : Nat) (v : Word), m.wf = true → n ≤ 8 → k + j ≤ n →
    (m.writeLE a n v).readLE (a + k) j = v.toNat / 2 ^ (8 * k) % 2 ^ (8 * j)

/-- R66: a store changes no other byte. -/
def Obligations.StoreLeavesOtherBytes : Prop :=
  ∀ (m : Memory) (a n b j : Nat) (v : Word), m.wf = true → b + j ≤ a ∨ a + n ≤ b →
    (m.writeLE a n v).readLE b j = m.readLE b j

/-! ### ALU instructions -/

/-- R171 to R175. -/
def Obligations.AddSubAndOrXor : Prop :=
  ∀ (s : State) (rd rs1 rs2 : RegIdx), s.served = .run → rd.toNat < s.regs.length →
    CompletesWith (.add rd rs1 rs2) s rd (u64 ((s.readReg rs1).toNat + (s.readReg rs2).toNat)) ∧
      CompletesWith (.sub rd rs1 rs2) s rd (u64 ((s.readReg rs1).toNat - (s.readReg rs2).toNat)) ∧
      CompletesWith (.and rd rs1 rs2) s rd (s.readReg rs1 &&& s.readReg rs2) ∧
      CompletesWith (.or rd rs1 rs2) s rd (s.readReg rs1 ||| s.readReg rs2) ∧
      CompletesWith (.xor rd rs1 rs2) s rd (s.readReg rs1 ^^^ s.readReg rs2) ∧
      OpcodeOf (.add rd rs1 rs2) 0x01 ∧ OpcodeOf (.sub rd rs1 rs2) 0x02 ∧ OpcodeOf (.and rd rs1 rs2) 0x03 ∧
      OpcodeOf (.or rd rs1 rs2) 0x04 ∧ OpcodeOf (.xor rd rs1 rs2) 0x05

/-- R170, R176 to R178: for an amount in [0, 63] and under every setting of SHIFT_OVERSIZE outside it. -/
def Obligations.RegisterShifts : Prop :=
  ∀ (s : State) (rd rs1 rs2 : RegIdx), s.served = .run → rd.toNat < s.regs.length →
    ShiftsBy (.sll rd rs1 rs2) s rd (s.readReg rs2).toNat (fun n => u64 ((s.readReg rs1).toNat * 2 ^ n)) 0 ∧
      ShiftsBy (.srl rd rs1 rs2) s rd (s.readReg rs2).toNat (fun n => u64 ((s.readReg rs1).toNat / 2 ^ n)) 0 ∧
      ShiftsBy (.sra rd rs1 rs2) s rd (s.readReg rs2).toNat (fun n => u64 (s64 (s.readReg rs1) / 2 ^ n))
        (if s64 (s.readReg rs1) < 0 then 0xFFFFFFFFFFFFFFFF else 0) ∧
      OpcodeOf (.sll rd rs1 rs2) 0x06 ∧ OpcodeOf (.srl rd rs1 rs2) 0x07 ∧ OpcodeOf (.sra rd rs1 rs2) 0x08

/-- R179, R180. -/
def Obligations.SetIfLess : Prop :=
  ∀ (s : State) (rd rs1 rs2 : RegIdx), s.served = .run → rd.toNat < s.regs.length →
    CompletesWith (.slt rd rs1 rs2) s rd (if s64 (s.readReg rs1) < s64 (s.readReg rs2) then 1 else 0) ∧
      CompletesWith (.sltu rd rs1 rs2) s rd (if (s.readReg rs1).toNat < (s.readReg rs2).toNat then 1 else 0) ∧
      OpcodeOf (.slt rd rs1 rs2) 0x09 ∧ OpcodeOf (.sltu rd rs1 rs2) 0x0A

/-- R200, R202, R206 to R208: the immediate as its 64-bit two's-complement pattern. -/
def Obligations.AddAndOrXorImmediate : Prop :=
  ∀ (s : State) (rd rs1 : RegIdx) (imm : Int), s.served = .run → rd.toNat < s.regs.length →
    CompletesWith (.addi rd rs1 imm) s rd (u64 ((s.readReg rs1).toNat + imm)) ∧
      CompletesWith (.andi rd rs1 imm) s rd (s.readReg rs1 &&& u64 imm) ∧
      CompletesWith (.ori rd rs1 imm) s rd (s.readReg rs1 ||| u64 imm) ∧
      CompletesWith (.xori rd rs1 imm) s rd (s.readReg rs1 ^^^ u64 imm) ∧
      OpcodeOf (.addi rd rs1 imm) 0x10 ∧ OpcodeOf (.andi rd rs1 imm) 0x14 ∧ OpcodeOf (.ori rd rs1 imm) 0x15 ∧
      OpcodeOf (.xori rd rs1 imm) 0x16

/-- R209, R210: slti compares with the immediate itself (any immediate a valid instance decodes), sltiu with its 64-bit
pattern, unsigned. -/
def Obligations.SetIfLessImmediate : Prop :=
  ∀ (s : State) (rd rs1 : RegIdx) (imm : Int), s.served = .run → rd.toNat < s.regs.length →
    -(2 ^ 63) ≤ imm → imm ≤ 2 ^ 63 - 1 →
    CompletesWith (.slti rd rs1 imm) s rd (if s64 (s.readReg rs1) < imm then 1 else 0) ∧
      CompletesWith (.sltiu rd rs1 imm) s rd (if (s.readReg rs1).toNat < (u64 imm).toNat then 1 else 0) ∧
      OpcodeOf (.slti rd rs1 imm) 0x17 ∧ OpcodeOf (.sltiu rd rs1 imm) 0x18

/-- R201, R203 to R205: the shifts by an immediate, negative and oversize amounts under every setting. -/
def Obligations.ImmediateShifts : Prop :=
  ∀ (s : State) (rd rs1 : RegIdx) (imm : Int), s.served = .run → rd.toNat < s.regs.length →
    ShiftsBy (.slli rd rs1 imm) s rd imm (fun n => u64 ((s.readReg rs1).toNat * 2 ^ n)) 0 ∧
      ShiftsBy (.srli rd rs1 imm) s rd imm (fun n => u64 ((s.readReg rs1).toNat / 2 ^ n)) 0 ∧
      ShiftsBy (.srai rd rs1 imm) s rd imm (fun n => u64 (s64 (s.readReg rs1) / 2 ^ n))
        (if s64 (s.readReg rs1) < 0 then 0xFFFFFFFFFFFFFFFF else 0) ∧
      OpcodeOf (.slli rd rs1 imm) 0x11 ∧ OpcodeOf (.srli rd rs1 imm) 0x12 ∧ OpcodeOf (.srai rd rs1 imm) 0x13

/-- The MODEL's own setting `anyValue` (logs 2, 3): a shift by an amount outside [0, 63] completes, and its result is a
free value of the shift, the operand and the amount. -/
def Obligations.OversizeShiftIsFree : Prop :=
  ∀ (s : State) (rd rs1 rs2 : RegIdx) (imm : Int), s.served = .run → rd.toNat < s.regs.length →
    s.cfg.shiftOversize = .anyValue →
    (63 < (s.readReg rs2).toNat →
      CompletesWith (.sll rd rs1 rs2) s rd (Config.oversizeShift .left (s.readReg rs1) (s.readReg rs2).toNat) ∧
      CompletesWith (.srl rd rs1 rs2) s rd (Config.oversizeShift .rightLogical (s.readReg rs1) (s.readReg rs2).toNat) ∧
      CompletesWith (.sra rd rs1 rs2) s rd
        (Config.oversizeShift .rightArithmetic (s.readReg rs1) (s.readReg rs2).toNat)) ∧
    (imm < 0 ∨ 63 < imm →
      CompletesWith (.slli rd rs1 imm) s rd (Config.oversizeShift .left (s.readReg rs1) imm) ∧
      CompletesWith (.srli rd rs1 imm) s rd (Config.oversizeShift .rightLogical (s.readReg rs1) imm) ∧
      CompletesWith (.srai rd rs1 imm) s rd (Config.oversizeShift .rightArithmetic (s.readReg rs1) imm))

/-- R230 to R232: imm * 2^12 inside the 20-bit range, and outside it under `wide64`; a fault outside it under
`refuse_outside_20bit`. auipc adds the instruction's own index. -/
def Obligations.UpperImmediate : Prop :=
  ∀ (s : State) (rd : RegIdx) (imm : Int), s.served = .run → rd.toNat < s.regs.length →
    ((-(2 ^ 19) ≤ imm ∧ imm ≤ 2 ^ 19 - 1) ∨ s.cfg.uImmMode = .wide64 →
      CompletesWith (.lui rd imm) s rd (u64 (imm * 2 ^ 12)) ∧
      CompletesWith (.auipc rd imm) s rd (u64 (s.pc.toNat + imm * 2 ^ 12))) ∧
    ((imm < -(2 ^ 19) ∨ 2 ^ 19 - 1 < imm) → s.cfg.uImmMode = .refuseOutside20Bit →
      exec (.lui rd imm) s = .fault (.unmodelled .uImmRange s.pc) ∧
      exec (.auipc rd imm) s = .fault (.unmodelled .uImmRange s.pc)) ∧
    OpcodeOf (.lui rd imm) 0x20 ∧ OpcodeOf (.auipc rd imm) 0x21

/-- The MODEL's own setting `anyValue` (logs 2, 3): outside the 20-bit range the upper immediate is a free multiple of
2^12. -/
def Obligations.FreeUpperImmediate : Prop :=
  ∀ (s : State) (rd : RegIdx) (imm : Int), s.served = .run → rd.toNat < s.regs.length →
    imm < -(2 ^ 19) ∨ 2 ^ 19 - 1 < imm → s.cfg.uImmMode = .anyValue →
    ∃ u : Word, u.setWidth 12 = 0 ∧ u.extractLsb' 12 52 = Config.upperImm imm ∧
      CompletesWith (.lui rd imm) s rd u ∧ CompletesWith (.auipc rd imm) s rd (s.pc + u)

/-! ### Jumps and branches -/

/-- R240, with R146. -/
def Obligations.JumpAndLink : Prop :=
  ∀ (s : State) (rd : RegIdx) (imm : Int), s.served = .run → rd.toNat < s.regs.length →
    JumpOrRaise (.jal rd imm) s rd (s.pc.toNat + imm) ∧ OpcodeOf (.jal rd imm) 0x28

/-- R241: the target is u64(x[rs1] + imm); for rd = rs1 ≠ x0 the parameter JALR_LINK_ORDER decides. -/
def Obligations.JumpAndLinkRegister : Prop :=
  ∀ (s : State) (rd rs1 : RegIdx) (imm : Int), s.served = .run → rd.toNat < s.regs.length →
    (rd ≠ rs1 ∨ rd = 0 ∨ s.cfg.jalrLinkOrder = .oldRs1 →
      JumpOrRaise (.jalr rd rs1 imm) s rd (u64 ((s.readReg rs1).toNat + imm)).toNat) ∧
    (rd = rs1 → rd ≠ 0 →
      (s.cfg.jalrLinkOrder = .newRs1 →
        JumpOrRaise (.jalr rd rs1 imm) s rd (u64 (s.pc.toNat + 1 + imm)).toNat) ∧
      (s.cfg.jalrLinkOrder = .refuse → exec (.jalr rd rs1 imm) s = .fault (.unmodelled .jalrLinkOrder s.pc))) ∧
    OpcodeOf (.jalr rd rs1 imm) 0x29

/-- The MODEL's own setting `either` (logs 2, 3): jalr with rd = rs1 ≠ x0 does what one of R241's two readings says. -/
def Obligations.JalrEitherReading : Prop :=
  ∀ (s : State) (rd : RegIdx) (imm : Int), s.served = .run → rd.toNat < s.regs.length → rd ≠ 0 →
    s.cfg.jalrLinkOrder = .either →
    JumpOrRaise (.jalr rd rd imm) s rd (u64 ((s.readReg rd).toNat + imm)).toNat ∨
      JumpOrRaise (.jalr rd rd imm) s rd (u64 (s.pc.toNat + 1 + imm)).toNat

/-- R242 to R248, with R146. -/
def Obligations.Branches : Prop :=
  ∀ (s : State) (rs1 rs2 : RegIdx) (imm : Int), s.served = .run →
    BranchesOn (.beq rs1 rs2 imm) s (s.readReg rs1 = s.readReg rs2) imm ∧
      BranchesOn (.bne rs1 rs2 imm) s (s.readReg rs1 ≠ s.readReg rs2) imm ∧
      BranchesOn (.blt rs1 rs2 imm) s (s64 (s.readReg rs1) < s64 (s.readReg rs2)) imm ∧
      BranchesOn (.bge rs1 rs2 imm) s (s64 (s.readReg rs1) ≥ s64 (s.readReg rs2)) imm ∧
      BranchesOn (.bltu rs1 rs2 imm) s ((s.readReg rs1).toNat < (s.readReg rs2).toNat) imm ∧
      BranchesOn (.bgeu rs1 rs2 imm) s ((s.readReg rs1).toNat ≥ (s.readReg rs2).toNat) imm ∧
      OpcodeOf (.beq rs1 rs2 imm) 0x30 ∧ OpcodeOf (.bne rs1 rs2 imm) 0x31 ∧ OpcodeOf (.blt rs1 rs2 imm) 0x32 ∧
      OpcodeOf (.bge rs1 rs2 imm) 0x33 ∧ OpcodeOf (.bltu rs1 rs2 imm) 0x34 ∧ OpcodeOf (.bgeu rs1 rs2 imm) 0x35

/-- R40: after a committed instruction of a run, pc is in [0, len]. -/
def Obligations.CommittedPcInProgram : Prop :=
  ∀ (i : Instr) (s t : State), s.served = .run → s.pc.toNat < s.program.length → exec i s = .next t →
    t.pc.toNat ≤ t.program.length

/-! ### Loads and stores -/

/-- R270 to R277: the bytes at the address, least significant first, sign-extended or zero-extended. -/
def Obligations.Loads : Prop :=
  ∀ (s : State) (rd rs1 : RegIdx) (imm : Int), s.served = .run → rd.toNat < s.regs.length →
    let half (a : Nat) : BitVec 16 := s.mem.read (a + 1) ++ s.mem.read a
    let word (a : Nat) : BitVec 32 := s.mem.read (a + 3) ++ s.mem.read (a + 2) ++ s.mem.read (a + 1) ++ s.mem.read a
    LoadsOrRaises (.lw rd rs1 imm) s rd rs1 imm 4 (fun a => (word a).signExtend 64) ∧
      LoadsOrRaises (.lh rd rs1 imm) s rd rs1 imm 2 (fun a => (half a).signExtend 64) ∧
      LoadsOrRaises (.lb rd rs1 imm) s rd rs1 imm 1 (fun a => (s.mem.read a).signExtend 64) ∧
      LoadsOrRaises (.lwu rd rs1 imm) s rd rs1 imm 4 (fun a => (word a).setWidth 64) ∧
      LoadsOrRaises (.lhu rd rs1 imm) s rd rs1 imm 2 (fun a => (half a).setWidth 64) ∧
      LoadsOrRaises (.lbu rd rs1 imm) s rd rs1 imm 1 (fun a => (s.mem.read a).setWidth 64) ∧
      OpcodeOf (.lw rd rs1 imm) 0x40 ∧ OpcodeOf (.lh rd rs1 imm) 0x41 ∧ OpcodeOf (.lb rd rs1 imm) 0x42 ∧
      OpcodeOf (.lwu rd rs1 imm) 0x43 ∧ OpcodeOf (.lhu rd rs1 imm) 0x44 ∧ OpcodeOf (.lbu rd rs1 imm) 0x45

/-- R270, R271, R278 to R280. -/
def Obligations.Stores : Prop :=
  ∀ (s : State) (rs2 rs1 : RegIdx) (imm : Int), s.served = .run → s.mem.wf = true →
    StoresOrRaises (.sw rs2 rs1 imm) s rs2 rs1 imm 4 ∧
      StoresOrRaises (.sh rs2 rs1 imm) s rs2 rs1 imm 2 ∧
      StoresOrRaises (.sb rs2 rs1 imm) s rs2 rs1 imm 1 ∧
      OpcodeOf (.sw rs2 rs1 imm) 0x48 ∧ OpcodeOf (.sh rs2 rs1 imm) 0x49 ∧ OpcodeOf (.sb rs2 rs1 imm) 0x4A

/-! ### Quantum instructions -/

/-- R302, R303, R305, with the requests of R300 and the answers of R301. -/
def Obligations.QuantumInitApplyEntangle : Prop :=
  ∀ (s : State) (rd rs1 rs2 : RegIdx) (imm : Int), s.served = .run →
    CallsPort (.qinit rd) ⟨.qinit, rd, 0, 0, 0⟩ s ∧
      CallsPort (.qapply rd rs1 imm) ⟨.qapply, rd, rs1, 0, imm⟩ s ∧
      CallsPort (.qentangle rd rs1 rs2) ⟨.qentangle, rd, rs1, rs2, 0⟩ s ∧
      OpcodeOf (.qinit rd) 0x50 ∧ OpcodeOf (.qapply rd rs1 imm) 0x51 ∧ OpcodeOf (.qentangle rd rs1 rs2) 0x53

/-- R304: `Bit(b)` writes b to rd, `Done` writes nothing, `Fail(k)` raises k, for the three kinds of R301. -/
def Obligations.QuantumMeasure : Prop :=
  ∀ (s : State) (rd rs1 : RegIdx) (rest : List PortAnswer), s.served = .run → rd.toNat < s.regs.length →
    (∀ b : Bool, s.portScript = .bit b :: rest → ∃ t, exec (.qmeasure rd rs1) s = .next t ∧
        WritesReg s t rd (if b then 1 else 0) ∧ SameMem s t ∧ SameStore s t ∧
        SentWithScript s t ⟨.qmeasure, rd, rs1, 0, 0⟩ rest ∧ GoesTo s t (s.pc.toNat + 1)) ∧
      (s.portScript = .done :: rest → ∃ t, exec (.qmeasure rd rs1) s = .next t ∧ SameRegs s t ∧ SameMem s t ∧
        SameStore s t ∧ SentWithScript s t ⟨.qmeasure, rd, rs1, 0, 0⟩ rest ∧ GoesTo s t (s.pc.toNat + 1)) ∧
      PassesOnFailures (.qmeasure rd rs1) ⟨.qmeasure, rd, rs1, 0, 0⟩ s rest ∧
      (∀ v, s.portScript = .other v :: rest →
        exec (.qmeasure rd rs1) s = .fault (.unmodelled .portResponse s.pc)) ∧
      OpcodeOf (.qmeasure rd rs1) 0x52

/-- QPORT as a draw (log 14; log 25 for which failures it admits): with no answer fixed, every quantum instruction still
completes or fails by one of the three errors of R301; qmeasure leaves in rd its old value, 0 or 1, and every other register as it was. -/
def Obligations.QuantumAnswersAreFree : Prop :=
  ∀ (s : State) (rd rs1 rs2 : RegIdx) (imm : Int), s.served = .run → rd.toNat < s.regs.length → s.portScript = [] →
    DrawsFromPort (.qinit rd) ⟨.qinit, rd, 0, 0, 0⟩ s ∧
      DrawsFromPort (.qapply rd rs1 imm) ⟨.qapply, rd, rs1, 0, imm⟩ s ∧
      DrawsFromPort (.qentangle rd rs1 rs2) ⟨.qentangle, rd, rs1, rs2, 0⟩ s ∧
      ∃ t, exec (.qmeasure rd rs1) s = .next t ∧ SentWithDraw s t ⟨.qmeasure, rd, rs1, 0, 0⟩ ∧ SameMem s t ∧
        SameStore s t ∧ (∀ r, r ≠ rd → t.readReg r = s.readReg r) ∧
        (t.readReg rd = s.readReg rd ∨ t.readReg rd = 0 ∨ t.readReg rd = 1) ∧
        (GoesTo s t (s.pc.toNat + 1) ∨ FailedByPort s t)

/-- R300: a quantum instruction reads no general register: on two states that differ in registers only it sends the same
requests, uses the same answers, ends in the same pc and status, and stops on one where it stops on the other; and what it
writes is one and the same register write, or none, on both. -/
def Obligations.QuantumReadsNoRegister : Prop :=
  ∀ (i : Instr) (s : State) (other : List Word),
    (∃ rd, i = .qinit rd) ∨ (∃ rd rs1 imm, i = .qapply rd rs1 imm) ∨ (∃ rd rs1, i = .qmeasure rd rs1) ∨
      (∃ rd rs1 rs2, i = .qentangle rd rs1 rs2) →
    (∀ t, exec i s = .next t → ∃ t', exec i { s with regs := other } = .next t' ∧ t'.requests = t.requests ∧
      t'.portScript = t.portScript ∧ t'.pc = t.pc ∧ t'.status = t.status ∧ t'.mem = t.mem ∧ t'.reply = t.reply ∧
      ∃ w : Option (RegIdx × Word), t.regs = (s.applyReg w).regs ∧
        t'.regs = (({ s with regs := other } : State).applyReg w).regs) ∧
    ∀ f, exec i s = .fault f → exec i { s with regs := other } = .fault f

/-! ### All instructions -/

/-- R44, R77: no instruction changes the program store, its validity mark, the parameters or the register count. -/
def Obligations.NoInstructionChangesProgram : Prop :=
  ∀ (i : Instr) (s t : State), exec i s = .next t → SameStore s t ∧ t.regs.length = s.regs.length

/-- R14: every instruction writes at most one register, its destination operand, or one memory range, the 4, 2 or 1 bytes
of sw, sh or sb at the effective address; every form that stores nothing leaves every byte, and every form without a
destination every register. -/
def Obligations.OneRegisterOrOneRange : Prop :=
  ∀ (i : Instr) (s t : State), s.mem.wf = true → exec i s = .next t →
    (destination i = none ∨ storeOperand i = none) ∧
      (∀ r : RegIdx, destination i ≠ some r → t.readReg r = s.readReg r) ∧
      (storeOperand i = none → SameMem s t) ∧
      ∀ rs1 imm n, storeOperand i = some (rs1, imm, n) → WritesAtMost s t (s.effectiveAddress rs1 imm) n

/-- R142, R148, R332: an instruction of a run that raises an error writes no register and no byte, keeps pc at its own
index and ends the run with status Failed. -/
def Obligations.ErrorsWriteNothing : Prop :=
  ∀ (i : Instr) (s t : State) (err : ErrorRecord), s.served = .run → s.status = .running → exec i s = .next t →
    t.status = .failed err →
    t.regs = s.regs ∧ t.mem = s.mem ∧ t.pc = s.pc ∧ err.pc = some s.pc ∧ err.line = none ∧
      t.reply = some (.error err)

/-- R13, R329: exec never refuses, and where it faults it is `Unmodelled` at the instruction's own index. -/
def Obligations.OnlyUnmodelledStops : Prop :=
  ∀ (i : Instr) (s : State), (∃ t, exec i s = .next t) ∨ ∃ why, exec i s = .fault (.unmodelled why s.instrPc)

/-- No instruction stops on an instance none of whose parameters leaves a form without meaning, while every answer fixed
for the port is Done or Fail (R301, R329: "Setting a parameter away from `refuse` removes the corresponding reason").
That premise admits the spec's settings other than these, and the MODEL's own `anyValue` and `either` (DESIGN CHOICE,
logs 2 and 3), which are no setting of the spec; a scripted `Bit` is left out. -/
def Obligations.EveryInstructionRuns : Prop :=
  ∀ (i : Instr) (s : State), RunsEveryForm s.cfg → s.PortOnContract → ∃ t, exec i s = .next t

/-! ### Step, run and host operations -/

/-- R141, R142: a step of a run is exec of the instruction the record at pc decodes to. -/
def Obligations.StepRunsFetchedInstruction : Prop :=
  ∀ (s : State) (rec : Record) (i : Instr), s.status = .running → s.program[s.pc.toNat]? = some rec →
    decodeDir s.cfg rec.dir = .ok i → step s = exec i (s.serve .run) ∧ (s.served = .run → step s = exec i s)

/-- R144, R147: a run whose pc is not below len ends normally and changes nothing else. -/
def Obligations.RunEndsPastLastInstruction : Prop :=
  ∀ s : State, s.status = .running → s.program.length ≤ s.pc.toNat →
    step s = .next { s with status := .halted, reply := some .ok }

/-- R147, R149, R362: run is refused without a valid program store; else it sets pc to 0 and the status to Running (an
empty program ends at once in Halted) and resets nothing else. -/
def Obligations.RunStartsAtIndexZero : Prop :=
  ∀ (s : State) (rest : List HostOp), s.status ≠ .running → s.inputs = .run :: rest →
    (s.progValid = false → step s = .refused .noProgram) ∧
    (s.progValid = true → ∃ t, step s = .next t ∧ t.pc = 0 ∧ t.regs = s.regs ∧ t.mem = s.mem ∧
      t.program = s.program ∧ t.progValid = true ∧ t.inputs = rest ∧ t.cfg = s.cfg ∧ SamePort s t ∧
      (s.program ≠ [] → t.status = .running) ∧ (s.program = [] → t.status = .halted ∧ t.reply = some .ok))

/-- R360: reconstruct builds a fresh machine: the registers hold INIT_REGS and x0 reads 0, every byte INIT_MEM, the
program store is empty and not valid, the status is Idle. -/
def Obligations.ReconstructBuildsFreshMachine : Prop :=
  ∀ (s : State) (rest : List HostOp), s.status ≠ .running → s.inputs = .reconstruct :: rest →
    ∃ t, step s = .next t ∧ t.regs.length = s.cfg.nreg ∧ t.readReg 0 = 0 ∧
      (∀ r : RegIdx, r ≠ 0 → r.toNat < s.cfg.nreg → t.readReg r = s.cfg.initRegs.getD r.toNat 0) ∧
      (∀ a : Nat, a < s.cfg.memCapacity →
        t.mem.read a = ((s.cfg.initMem.reverse.find? (fun c => c.1 == a)).map Prod.snd).getD 0) ∧
      t.program = [] ∧ t.progValid = false ∧ t.status = .idle ∧ t.cfg = s.cfg ∧ t.inputs = rest

/-- R153, R141: the step interface does what a step of a run at that pc does to registers and memory, gives its next or
its error to the host without a pc, and changes neither the engine's pc nor its status; at or past len it fails with
`PcOutOfRange`, where the empty text of the record is the MODEL's choice (DESIGN CHOICE, log 26). A reserved opcode at p
raises `UnknownOpcode` and changes nothing (R113; which mnemonic it records is left open, log 19), an ill-formed record is
refused (R114), and an instruction that faults in a run faults alike. -/
def Obligations.StepInterfaceMatchesRun : Prop :=
  ∀ (s : State) (p : Word) (rest : List HostOp), s.status ≠ .running → s.inputs = .step p :: rest →
    (s.program.length ≤ p.toNat → ∃ t, step s = .next t ∧ t.regs = s.regs ∧ t.mem = s.mem ∧ t.pc = s.pc ∧
      t.status = s.status ∧ t.program = s.program ∧ t.progValid = s.progValid ∧
      t.reply = some (.error ⟨.pcOutOfRange p.toNat, none, none, []⟩)) ∧
    (∀ (rec : Record) (c : BitVec 8), s.program[p.toNat]? = some rec → decodeDir s.cfg rec.dir = .error (.reservedOpcode c) →
      ∃ t m, step s = .next t ∧ t.regs = s.regs ∧ t.mem = s.mem ∧ t.pc = s.pc ∧ t.status = s.status ∧
        t.program = s.program ∧ t.progValid = s.progValid ∧
        t.reply = some (.error ⟨.decode (.unknownOpcode m), none, none, rec.text⟩)) ∧
    (∀ rec : Record, s.program[p.toNat]? = some rec → decodeDir s.cfg rec.dir = .error .illFormed →
      step s = .refused .illFormedDir) ∧
    (∀ (rec : Record) (i : Instr) (f : Fault), s.program[p.toNat]? = some rec → decodeDir s.cfg rec.dir = .ok i →
      exec i { s with inputs := rest, served := .run, pc := p, status := .running } = .fault f → step s = .fault f) ∧
    ∀ (rec : Record) (i : Instr) (u : State), s.program[p.toNat]? = some rec → decodeDir s.cfg rec.dir = .ok i →
      exec i { s with inputs := rest, served := .run, pc := p, status := .running } = .next u →
      ∃ t, step s = .next t ∧ t.regs = u.regs ∧ t.mem = u.mem ∧ t.requests = u.requests ∧ t.pc = s.pc ∧
        t.status = s.status ∧ t.program = s.program ∧ t.progValid = s.progValid ∧ t.served = .run ∧
        ((∃ err, u.status = .failed err ∧ t.reply = some (.error { err with pc := none })) ∨
          (∃ z : Int, t.reply = some (.next (.pc z)) ∧ u.pc = u64 z ∧ (u.status = .running ∨ u.status = .halted)) ∨
          (t.reply = some (.next .halt) ∧ u.status = .halted))

/-- R152: an ad-hoc line. A decode error is returned without a pc and changes nothing; a decoded instruction changes
neither pc, program store, validity nor status. The target of an ad-hoc jump or taken branch is not checked, under no
setting of JUMP_PAST_END: the instruction completes, and the link of a jump is the free ADHOC_PC (log 15) plus 1. That
the host receives a jal's or a branch's target as the integer ADHOC_PC + imm, not reduced modulo 2^64, is the MODEL's
reading of R152 (DEDUCED, log 13). -/
def Obligations.AdhocInstruction : Prop :=
  ∀ (s : State) (line : List Char) (rest : List HostOp), s.status ≠ .running → s.inputs = .execute line :: rest →
    (∀ e, decodeLine s.cfg line = .error e →
      step s = .next { s with inputs := rest, reply := some (.error ⟨.decode e, none, none, line⟩) }) ∧
    (∀ i t, decodeLine s.cfg line = .instr i → step s = .next t →
      t.pc = s.pc ∧ t.program = s.program ∧ t.progValid = s.progValid ∧ t.status = s.status ∧ t.cfg = s.cfg ∧
        t.inputs = rest ∧ t.served = .run) ∧
    (∀ rd imm, decodeLine s.cfg line = .instr (.jal rd imm) → rd.toNat < s.regs.length →
      AdhocJumpsTo s rd ((Config.adhocPc s.draws).toNat + imm)) ∧
    (∀ rd rs1 imm, decodeLine s.cfg line = .instr (.jalr rd rs1 imm) → rd.toNat < s.regs.length →
      (rd ≠ rs1 ∨ rd = 0 ∨ s.cfg.jalrLinkOrder = .oldRs1 →
        AdhocJumpsTo s rd (u64 ((s.readReg rs1).toNat + imm)).toNat) ∧
      (rd = rs1 → rd ≠ 0 → s.cfg.jalrLinkOrder = .newRs1 →
        AdhocJumpsTo s rd (u64 ((Config.adhocPc s.draws).toNat + 1 + imm)).toNat)) ∧
    ∀ rs1 rs2 imm, let x := s.readReg rs1; let y := s.readReg rs2
      (decodeLine s.cfg line = .instr (.beq rs1 rs2 imm) → AdhocBranchesOn s (x = y) imm) ∧
      (decodeLine s.cfg line = .instr (.bne rs1 rs2 imm) → AdhocBranchesOn s (x ≠ y) imm) ∧
      (decodeLine s.cfg line = .instr (.blt rs1 rs2 imm) → AdhocBranchesOn s (s64 x < s64 y) imm) ∧
      (decodeLine s.cfg line = .instr (.bge rs1 rs2 imm) → AdhocBranchesOn s (s64 y ≤ s64 x) imm) ∧
      (decodeLine s.cfg line = .instr (.bltu rs1 rs2 imm) → AdhocBranchesOn s (x.toNat < y.toNat) imm) ∧
      (decodeLine s.cfg line = .instr (.bgeu rs1 rs2 imm) → AdhocBranchesOn s (y.toNat ≤ x.toNat) imm)

/-- R152: whatever the line's instruction is, its register and memory writes are those of the same instruction at the pc
ADHOC_PC, but that no target check applies: where in a run only that check would fail it, the ad-hoc instruction completes
(`AdhocInstruction` says so of jumps and branches). An error is returned without a pc. -/
def Obligations.AdhocMatchesRun : Prop :=
  ∀ (s : State) (line : List Char) (rest : List HostOp) (i : Instr) (u : State), s.status ≠ .running →
    s.inputs = .execute line :: rest → decodeLine s.cfg line = .instr i →
    exec i { s with inputs := rest, served := .run, pc := Config.adhocPc s.draws, status := .running,
                    draws := s.draws + 1 } = .next u →
    (∀ err z, u.status = .failed err → err.kind ≠ .pcOutOfRange z) →
    ∃ t, step s = .next t ∧ t.regs = u.regs ∧ t.mem = u.mem ∧ t.requests = u.requests ∧ t.portScript = u.portScript ∧
      ∀ err, u.status = .failed err → t.reply = some (.error ⟨err.kind, none, none, line⟩)

/-- R37: dump-registers gives the NREG register values in index order, index 0 as 0, and changes no other state. -/
def Obligations.DumpRegistersGivesValues : Prop :=
  ∀ (s : State) (rest : List HostOp), s.status ≠ .running → s.inputs = .dumpRegisters :: rest →
    ∃ values : List Word, step s = .next { s with inputs := rest, reply := some (.registers values) } ∧
      values.length = s.regs.length ∧ ∀ r : RegIdx, r.toNat < s.regs.length → values[r.toNat]? = some (s.readReg r)

/-! ### Whole-machine statements -/

/-- Every step keeps the invariant (R30, R72, R114, R115, R144, R147, R149). -/
def Obligations.StepKeepsInvariant : Prop :=
  ∀ s t : State, s.Inv → step s = .next t → t.Inv

/-- A constructed machine with parameters in their numeric ranges meets the invariant; so does State.reset. -/
def Obligations.ConstructionMeetsInvariant : Prop :=
  (∀ p : Params, p.InRange → (State.construct p).Inv) ∧ State.reset.Inv

/-- What reset leaves (R48, R360): status Idle, no program, x0 0. The parameters are R8's defaults, in the sets R8
admits (log 1). The registers and memory 0 and the pc 0 are the model's choices (DESIGN CHOICE, logs 4, 5, 6), and the
host-side fields are the model's own (DESIGN CHOICE, logs 10, 11, 14). -/
def Obligations.ResetState : Prop :=
  State.reset.status = .idle ∧ State.reset.program = [] ∧ State.reset.progValid = false ∧ State.reset.pc = 0 ∧
    (∀ r : RegIdx, State.reset.readReg r = 0) ∧ (∀ a : Nat, State.reset.mem.read a = 0) ∧
    State.reset.regs.length = 32 ∧ State.reset.cfg.nreg = 32 ∧ State.reset.cfg.memCapacity = 1048576 ∧
    State.reset.cfg.immMin = -2147483648 ∧ State.reset.cfg.immMax = 2147483647 ∧
    State.reset.cfg.jumpPastEnd = .fault ∧ State.reset.cfg.shiftOversize = .refuse ∧
    State.reset.cfg.uImmMode = .refuseOutside20Bit ∧ State.reset.cfg.jalrLinkOrder = .refuse ∧ State.reset.cfg.Valid ∧ State.reset.cfg.initRegs = [] ∧
    State.reset.cfg.initMem = [] ∧ State.reset.served = .run ∧ State.reset.inputs = [] ∧ State.reset.reply = none ∧
    State.reset.portScript = [] ∧ State.reset.requests = [] ∧ State.reset.draws = 0

/-- In a state that meets the invariant a step is refused only where R149 refuses it: a host's run with no valid program
store. -/
def Obligations.OnlyRunWithoutProgramRefused : Prop :=
  ∀ (s : State) (r : Refusal), s.Inv → step s = .refused r →
    r = .noProgram ∧ s.status ≠ .running ∧ s.progValid = false ∧ ∃ rest, s.inputs = .run :: rest

/-- A run on an instance that leaves no form without meaning, with every answer fixed for the port Done or Fail, never stops
the machine: each step of it gives a next state, and there all of this holds again, so that by induction the run goes on
until it ends in Halted or Failed (R144, R148, R329). "Leaves no form without meaning" admits the MODEL's own settings
`anyValue` and `either` (DESIGN CHOICE, logs 2 and 3) beside the spec's. -/
def Obligations.RunNeverStopsTheMachine : Prop :=
  ∀ s : State, s.Inv → s.status = .running → RunsEveryForm s.cfg → s.PortOnContract →
    ∃ t, step s = .next t ∧ t.Inv ∧ RunsEveryForm t.cfg ∧ t.PortOnContract ∧
      (t.status = .running ∨ t.status = .halted ∨ ∃ err, t.status = .failed err)

/-- R8: the parameters are fixed for the machine instance; and a store or any other step of a run never changes the
program store (R44, R77). -/
def Obligations.ParametersAndProgramFixed : Prop :=
  ∀ s t : State, step s = .next t →
    t.cfg = s.cfg ∧ (s.status = .running → t.program = s.program ∧ t.progValid = s.progValid ∧ t.inputs = s.inputs)
end

