-- ==== Sys2Proof/Laws/Encoding.lean ====
section
/-! SUPPORT. The fields of a record survive packing and unpacking (30_encoding.md R110), and printed decimals read back
(R94, R95, R118). -/

namespace Sys2Proof

theorem packDir_toNat (f : DirFields) :
    (packDir f).toNat = (((((BitVec.ofInt 64 f.imm).toNat * 256 + f.rs2.toNat) * 256 + f.rs1.toNat) * 256 +
      f.rd.toNat) * 256 + f.opc.toNat) := by
  unfold packDir
  have h1 := f.rs2.isLt
  have h2 := f.rs1.isLt
  have h3 := f.rd.isLt
  have h4 := f.opc.isLt
  simp only [BitVec.toNat_append]
  rw [← Nat.shiftLeft_add_eq_or_of_lt h4, ← Nat.shiftLeft_add_eq_or_of_lt h3, ← Nat.shiftLeft_add_eq_or_of_lt h2,
    ← Nat.shiftLeft_add_eq_or_of_lt h1]
  simp only [Nat.shiftLeft_eq]

@[simp] theorem unpackDir_packDir_opc (f : DirFields) : (unpackDir (packDir f)).opc = f.opc := by
  apply BitVec.eq_of_toNat_eq
  have h4 := f.opc.isLt
  simp only [unpackDir, BitVec.extractLsb'_toNat, packDir_toNat, Nat.shiftRight_eq_div_pow]
  omega

@[simp] theorem unpackDir_packDir_rd (f : DirFields) : (unpackDir (packDir f)).rd = f.rd := by
  apply BitVec.eq_of_toNat_eq
  have h3 := f.rd.isLt
  have h4 := f.opc.isLt
  simp only [unpackDir, BitVec.extractLsb'_toNat, packDir_toNat, Nat.shiftRight_eq_div_pow]
  omega

@[simp] theorem unpackDir_packDir_rs1 (f : DirFields) : (unpackDir (packDir f)).rs1 = f.rs1 := by
  apply BitVec.eq_of_toNat_eq
  have h2 := f.rs1.isLt
  have h3 := f.rd.isLt
  have h4 := f.opc.isLt
  simp only [unpackDir, BitVec.extractLsb'_toNat, packDir_toNat, Nat.shiftRight_eq_div_pow]
  omega

@[simp] theorem unpackDir_packDir_rs2 (f : DirFields) : (unpackDir (packDir f)).rs2 = f.rs2 := by
  apply BitVec.eq_of_toNat_eq
  have h1 := f.rs2.isLt
  have h2 := f.rs1.isLt
  have h3 := f.rd.isLt
  have h4 := f.opc.isLt
  simp only [unpackDir, BitVec.extractLsb'_toNat, packDir_toNat, Nat.shiftRight_eq_div_pow]
  omega

theorem unpackDir_packDir_imm (f : DirFields) (hlo : -(2 ^ 63) ≤ f.imm) (hhi : f.imm ≤ 2 ^ 63 - 1) :
    (unpackDir (packDir f)).imm = f.imm := by
  have h : (packDir f).extractLsb' 32 64 = BitVec.ofInt 64 f.imm := by
    apply BitVec.eq_of_toNat_eq
    have h0 := (BitVec.ofInt 64 f.imm).isLt
    have h1 := f.rs2.isLt
    have h2 := f.rs1.isLt
    have h3 := f.rd.isLt
    have h4 := f.opc.isLt
    simp only [BitVec.extractLsb'_toNat, packDir_toNat, Nat.shiftRight_eq_div_pow]
    omega
  simp only [unpackDir, h, BitVec.toInt_ofInt, Int.bmod_def]
  omega

/-- A record's fields, packed and unpacked, are the same fields. -/
theorem unpackDir_packDir (f : DirFields) (hlo : -(2 ^ 63) ≤ f.imm) (hhi : f.imm ≤ 2 ^ 63 - 1) :
    unpackDir (packDir f) = f := by
  have hi := unpackDir_packDir_imm f hlo hhi
  cases h : unpackDir (packDir f) with
  | mk o d a b i =>
    have h1 := unpackDir_packDir_opc f
    have h2 := unpackDir_packDir_rd f
    have h3 := unpackDir_packDir_rs1 f
    have h4 := unpackDir_packDir_rs2 f
    rw [h] at h1 h2 h3 h4 hi
    subst h1 h2 h3 h4 hi
    rfl

/-! ### Decimal digits -/

theorem digitChar_toNat {d : Nat} (h : d < 10) : (digitChar d).toNat = 48 + d := by
  interval_cases d <;> decide

theorem isDigit_digitChar {d : Nat} (h : d < 10) : isDigit (digitChar d) = true := by
  interval_cases d <;> decide

/-- The digits printed in front of `acc` are digits, at least one, and their value leads the value of `acc`. -/
theorem decimalDigits_spec (fuel n : Nat) (acc : List Char) (hf : n < fuel) :
    ∃ ds, decimalDigits fuel n acc = ds ++ acc ∧ ds ≠ [] ∧ ds.all isDigit = true ∧ digitsValue ds = n := by
  induction fuel generalizing n acc with
  | zero => omega
  | succ fuel ih =>
    unfold decimalDigits
    split
    · rename_i h
      exact ⟨[digitChar n], rfl, by simp, by simp [isDigit_digitChar h], by simp [digitsValue, digitChar_toNat h]⟩
    · rename_i h
      obtain ⟨ds, h1, h2, h3, h4⟩ := ih (n / 10) (digitChar (n % 10) :: acc) (by omega)
      have hm : n % 10 < 10 := by omega
      refine ⟨ds ++ [digitChar (n % 10)], by simp [h1], by simp, ?_, ?_⟩
      · simp [h3, isDigit_digitChar hm]
      · simp only [digitsValue] at h4 ⊢
        rw [List.foldl_append, h4]
        simp [digitChar_toNat hm]
        omega

/-- A printed natural number reads back. -/
theorem parseNat_printNat (n : Nat) : parseNat (printNat n) = some n := by
  obtain ⟨ds, h1, h2, h3, h4⟩ := decimalDigits_spec (n + 1) n [] (by omega)
  have : printNat n = ds := by unfold printNat; simpa using h1
  rw [this]
  unfold parseNat
  simp [h2, h3, h4]

/-- A printed natural number is digits, at least one. -/
theorem printNat_digits (n : Nat) : printNat n ≠ [] ∧ (printNat n).all isDigit = true := by
  obtain ⟨ds, h1, h2, h3, -⟩ := decimalDigits_spec (n + 1) n [] (by omega)
  have : printNat n = ds := by unfold printNat; simpa using h1
  rw [this]
  exact ⟨h2, h3⟩

end Sys2Proof
end

