-- ==== Sys2Proof/Laws/Meanings.lean ====
section
/-! SUPPORT. Each instruction as one call of the shared operations: its arm and its meaning unfolded once. -/

namespace Sys2Proof.Machine

theorem exec_add (rd rs1 rs2 : RegIdx) (s : State) : exec (.add rd rs1 rs2) s =
    s.finish (s.aluResult rd (.ok (s.readReg rs1 + s.readReg rs2))) := rfl

theorem exec_sub (rd rs1 rs2 : RegIdx) (s : State) : exec (.sub rd rs1 rs2) s =
    s.finish (s.aluResult rd (.ok (s.readReg rs1 - s.readReg rs2))) := rfl

theorem exec_and (rd rs1 rs2 : RegIdx) (s : State) : exec (.and rd rs1 rs2) s =
    s.finish (s.aluResult rd (.ok (s.readReg rs1 &&& s.readReg rs2))) := rfl

theorem exec_or (rd rs1 rs2 : RegIdx) (s : State) : exec (.or rd rs1 rs2) s =
    s.finish (s.aluResult rd (.ok (s.readReg rs1 ||| s.readReg rs2))) := rfl

theorem exec_xor (rd rs1 rs2 : RegIdx) (s : State) : exec (.xor rd rs1 rs2) s =
    s.finish (s.aluResult rd (.ok (s.readReg rs1 ^^^ s.readReg rs2))) := rfl

theorem exec_sll (rd rs1 rs2 : RegIdx) (s : State) : exec (.sll rd rs1 rs2) s =
    s.finish (s.aluResult rd (shiftResult s.cfg .left (s.readReg rs1) (s.readReg rs2).toNat)) := rfl

theorem exec_srl (rd rs1 rs2 : RegIdx) (s : State) : exec (.srl rd rs1 rs2) s =
    s.finish (s.aluResult rd (shiftResult s.cfg .rightLogical (s.readReg rs1) (s.readReg rs2).toNat)) := rfl

theorem exec_sra (rd rs1 rs2 : RegIdx) (s : State) : exec (.sra rd rs1 rs2) s =
    s.finish (s.aluResult rd (shiftResult s.cfg .rightArithmetic (s.readReg rs1) (s.readReg rs2).toNat)) := rfl

theorem exec_slt (rd rs1 rs2 : RegIdx) (s : State) : exec (.slt rd rs1 rs2) s =
    s.finish (s.aluResult rd (.ok (setIf (lessSigned (s.readReg rs1) (s.readReg rs2))))) := rfl

theorem exec_sltu (rd rs1 rs2 : RegIdx) (s : State) : exec (.sltu rd rs1 rs2) s =
    s.finish (s.aluResult rd (.ok (setIf (lessUnsigned (s.readReg rs1) (s.readReg rs2))))) := rfl

theorem exec_addi (rd rs1 : RegIdx) (imm : Int) (s : State) : exec (.addi rd rs1 imm) s =
    s.finish (s.aluResult rd (.ok (s.readReg rs1 + u64 imm))) := rfl

theorem exec_slli (rd rs1 : RegIdx) (imm : Int) (s : State) : exec (.slli rd rs1 imm) s =
    s.finish (s.aluResult rd (shiftResult s.cfg .left (s.readReg rs1) imm)) := rfl

theorem exec_srli (rd rs1 : RegIdx) (imm : Int) (s : State) : exec (.srli rd rs1 imm) s =
    s.finish (s.aluResult rd (shiftResult s.cfg .rightLogical (s.readReg rs1) imm)) := rfl

theorem exec_srai (rd rs1 : RegIdx) (imm : Int) (s : State) : exec (.srai rd rs1 imm) s =
    s.finish (s.aluResult rd (shiftResult s.cfg .rightArithmetic (s.readReg rs1) imm)) := rfl

theorem exec_andi (rd rs1 : RegIdx) (imm : Int) (s : State) : exec (.andi rd rs1 imm) s =
    s.finish (s.aluResult rd (.ok (s.readReg rs1 &&& u64 imm))) := rfl

theorem exec_ori (rd rs1 : RegIdx) (imm : Int) (s : State) : exec (.ori rd rs1 imm) s =
    s.finish (s.aluResult rd (.ok (s.readReg rs1 ||| u64 imm))) := rfl

theorem exec_xori (rd rs1 : RegIdx) (imm : Int) (s : State) : exec (.xori rd rs1 imm) s =
    s.finish (s.aluResult rd (.ok (s.readReg rs1 ^^^ u64 imm))) := rfl

theorem exec_slti (rd rs1 : RegIdx) (imm : Int) (s : State) : exec (.slti rd rs1 imm) s =
    s.finish (s.aluResult rd (.ok (setIf (lessSigned (s.readReg rs1) (u64 imm))))) := rfl

theorem exec_sltiu (rd rs1 : RegIdx) (imm : Int) (s : State) : exec (.sltiu rd rs1 imm) s =
    s.finish (s.aluResult rd (.ok (setIf (lessUnsigned (s.readReg rs1) (u64 imm))))) := rfl

theorem exec_lui (rd : RegIdx) (imm : Int) (s : State) : exec (.lui rd imm) s =
    s.finish (s.aluResult rd (upperImmediate s.cfg imm)) := rfl

theorem exec_auipc (rd : RegIdx) (imm : Int) (s : State) : exec (.auipc rd imm) s =
    s.finish (s.aluResult rd ((upperImmediate s.cfg imm).map fun u => s.instrPc + u)) := rfl

theorem exec_jal (rd : RegIdx) (imm : Int) (s : State) : exec (.jal rd imm) s =
    s.finish (s.jumpResult rd ((s.instrPc.toNat : Int) + imm)) := rfl

theorem exec_jalr (rd rs1 : RegIdx) (imm : Int) (s : State) : exec (.jalr rd rs1 imm) s =
    match s.jalrBase rd rs1 with
    | .error t => s.finish (.error t)
    | .ok base => s.finish (s.jumpResult rd ((base + u64 imm).toNat : Int)) := rfl

theorem exec_beq (rs1 rs2 : RegIdx) (imm : Int) (s : State) : exec (.beq rs1 rs2 imm) s =
    s.finish (s.branchResult (isEqual (s.readReg rs1) (s.readReg rs2)) imm) := rfl

theorem exec_bne (rs1 rs2 : RegIdx) (imm : Int) (s : State) : exec (.bne rs1 rs2 imm) s =
    s.finish (s.branchResult (!isEqual (s.readReg rs1) (s.readReg rs2)) imm) := rfl

theorem exec_blt (rs1 rs2 : RegIdx) (imm : Int) (s : State) : exec (.blt rs1 rs2 imm) s =
    s.finish (s.branchResult (lessSigned (s.readReg rs1) (s.readReg rs2)) imm) := rfl

theorem exec_bge (rs1 rs2 : RegIdx) (imm : Int) (s : State) : exec (.bge rs1 rs2 imm) s =
    s.finish (s.branchResult (!lessSigned (s.readReg rs1) (s.readReg rs2)) imm) := rfl

theorem exec_bltu (rs1 rs2 : RegIdx) (imm : Int) (s : State) : exec (.bltu rs1 rs2 imm) s =
    s.finish (s.branchResult (lessUnsigned (s.readReg rs1) (s.readReg rs2)) imm) := rfl

theorem exec_bgeu (rs1 rs2 : RegIdx) (imm : Int) (s : State) : exec (.bgeu rs1 rs2 imm) s =
    s.finish (s.branchResult (!lessUnsigned (s.readReg rs1) (s.readReg rs2)) imm) := rfl

theorem exec_lw (rd rs1 : RegIdx) (imm : Int) (s : State) : exec (.lw rd rs1 imm) s =
    s.finish (s.loadResult 4 (sext 32) rd rs1 imm) := rfl

theorem exec_lh (rd rs1 : RegIdx) (imm : Int) (s : State) : exec (.lh rd rs1 imm) s =
    s.finish (s.loadResult 2 (sext 16) rd rs1 imm) := rfl

theorem exec_lb (rd rs1 : RegIdx) (imm : Int) (s : State) : exec (.lb rd rs1 imm) s =
    s.finish (s.loadResult 1 (sext 8) rd rs1 imm) := rfl

theorem exec_lwu (rd rs1 : RegIdx) (imm : Int) (s : State) : exec (.lwu rd rs1 imm) s =
    s.finish (s.loadResult 4 (zext 32) rd rs1 imm) := rfl

theorem exec_lhu (rd rs1 : RegIdx) (imm : Int) (s : State) : exec (.lhu rd rs1 imm) s =
    s.finish (s.loadResult 2 (zext 16) rd rs1 imm) := rfl

theorem exec_lbu (rd rs1 : RegIdx) (imm : Int) (s : State) : exec (.lbu rd rs1 imm) s =
    s.finish (s.loadResult 1 (zext 8) rd rs1 imm) := rfl

theorem exec_sw (rs2 rs1 : RegIdx) (imm : Int) (s : State) : exec (.sw rs2 rs1 imm) s =
    s.finish (s.storeResult 4 rs2 rs1 imm) := rfl

theorem exec_sh (rs2 rs1 : RegIdx) (imm : Int) (s : State) : exec (.sh rs2 rs1 imm) s =
    s.finish (s.storeResult 2 rs2 rs1 imm) := rfl

theorem exec_sb (rs2 rs1 : RegIdx) (imm : Int) (s : State) : exec (.sb rs2 rs1 imm) s =
    s.finish (s.storeResult 1 rs2 rs1 imm) := rfl

theorem exec_qinit (rd : RegIdx) (s : State) : exec (.qinit rd) s =
    s.callPlain ⟨.qinit, rd, 0, 0, 0⟩ := rfl

theorem exec_qapply (rd rs1 : RegIdx) (imm : Int) (s : State) : exec (.qapply rd rs1 imm) s =
    s.callPlain ⟨.qapply, rd, rs1, 0, imm⟩ := rfl

theorem exec_qmeasure (rd rs1 : RegIdx) (s : State) : exec (.qmeasure rd rs1) s =
    s.callMeasure rd ⟨.qmeasure, rd, rs1, 0, 0⟩ := rfl

theorem exec_qentangle (rd rs1 rs2 : RegIdx) (s : State) : exec (.qentangle rd rs1 rs2) s =
    s.callPlain ⟨.qentangle, rd, rs1, rs2, 0⟩ := rfl

end Sys2Proof.Machine
end

