-- ==== Sys2Proof/Laws/Memory.lean ====
section
/-! SUPPORT. What the memory operations do (20_memory.md R65, R66), and that each keeps the canonical form. -/

namespace Sys2Proof.Machine

/-! ### One byte -/

/-- No address below the bound of a canonical memory is listed. -/
theorem Memory.read_of_lt {m : Memory} {lo a : Nat} (h : Memory.wfFrom lo m = true) (ha : a < lo) :
    m.read a = unlistedByte := by
  induction m generalizing lo with
  | nil => rfl
  | cons c m ih =>
    obtain ⟨b, v⟩ := c
    simp only [Memory.wfFrom, Bool.and_eq_true, decide_eq_true_eq] at h
    simp only [Memory.read]
    rw [if_neg (by omega)]
    exact ih h.2 (by omega)

theorem Memory.wfFrom_mono {m : Memory} {lo lo' : Nat} (h : Memory.wfFrom lo m = true) (hl : lo' ≤ lo) :
    Memory.wfFrom lo' m = true := by
  cases m with
  | nil => rfl
  | cons c m =>
    simp only [Memory.wfFrom, Bool.and_eq_true, decide_eq_true_eq] at h ⊢
    exact ⟨⟨by omega, h.1.2⟩, h.2⟩

theorem Memory.read_write_from {m : Memory} {lo : Nat} (h : Memory.wfFrom lo m = true) (a b : Nat) (v : Byte) :
    (m.write a v).read b = if b = a then v else m.read b := by
  induction m generalizing lo with
  | nil =>
    simp only [Memory.write]
    split
    · rename_i hv
      simp [Memory.read, hv]
    · simp [Memory.read]
  | cons c m ih =>
    obtain ⟨x, w⟩ := c
    simp only [Memory.wfFrom, Bool.and_eq_true, decide_eq_true_eq] at h
    have hm := h.2
    have hlow : ∀ y, y < x + 1 → Memory.read m y = unlistedByte := fun y hy => Memory.read_of_lt hm hy
    simp only [Memory.write]
    split
    · split
      · rename_i hv
        by_cases hb : b = a
        · subst hb
          simp only [Memory.read]
          rw [if_neg (by omega), hlow _ (by omega), if_pos trivial, hv]
        · simp [hb]
      · simp [Memory.read]
    · split
      · rename_i hax
        subst hax
        split
        · rename_i hv
          by_cases hb : b = a
          · subst hb; rw [hlow _ (by omega)]; simp [hv]
          · simp [hb, Memory.read]
        · by_cases hb : b = a <;> simp [hb, Memory.read]
      · simp only [Memory.read]
        rw [ih hm]
        by_cases hb : b = x
        · subst hb; simp; omega
        · simp [hb]

/-- A byte read after a write: the written byte at its address, every other byte as before. -/
theorem Memory.read_write {m : Memory} (h : m.wf = true) (a b : Nat) (v : Byte) :
    (m.write a v).read b = if b = a then v else m.read b :=
  Memory.read_write_from h a b v

theorem Memory.wfFrom_write {m : Memory} {lo : Nat} (h : Memory.wfFrom lo m = true) (a : Nat) (v : Byte) (ha : lo ≤ a) :
    Memory.wfFrom lo (m.write a v) = true := by
  induction m generalizing lo with
  | nil =>
    simp only [Memory.write]
    split
    · rfl
    · rename_i hv
      simp [Memory.wfFrom, ha, hv]
  | cons c m ih =>
    obtain ⟨x, w⟩ := c
    have h0 := h
    simp only [Memory.wfFrom, Bool.and_eq_true, decide_eq_true_eq] at h
    simp only [Memory.write]
    split
    · split
      · exact h0
      · rename_i hax hv
        simp only [Memory.wfFrom, Bool.and_eq_true, decide_eq_true_eq]
        exact ⟨⟨ha, hv⟩, ⟨by omega, h.1.2⟩, h.2⟩
    · split
      · split
        · exact Memory.wfFrom_mono h.2 (by omega)
        · rename_i hax hv
          subst hax
          simp only [Memory.wfFrom, Bool.and_eq_true, decide_eq_true_eq]
          exact ⟨⟨ha, hv⟩, h.2⟩
      · simp only [Memory.wfFrom, Bool.and_eq_true, decide_eq_true_eq]
        exact ⟨h.1, ih h.2 (by omega)⟩

/-- A write keeps the canonical form. -/
theorem Memory.wf_write {m : Memory} (h : m.wf = true) (a : Nat) (v : Byte) : (m.write a v).wf = true :=
  Memory.wfFrom_write h a v (Nat.zero_le a)

/-- A write below the capacity lists no byte at the capacity or above. -/
theorem Memory.within_write {m : Memory} {cap : Nat} (h : m.within cap = true) {a : Nat} (ha : a < cap) (v : Byte) :
    (m.write a v).within cap = true := by
  unfold Memory.within at *
  induction m with
  | nil =>
    simp only [Memory.write]
    split <;> simp [ha]
  | cons c m ih =>
    obtain ⟨x, w⟩ := c
    simp only [List.all_cons, Bool.and_eq_true, decide_eq_true_eq] at h
    simp only [Memory.write]
    repeat' split
    · simpa using h
    · simpa using ⟨ha, by simpa using h⟩
    · exact h.2
    · simpa using ⟨ha, by simpa using h.2⟩
    · simpa using ⟨h.1, by simpa using ih h.2⟩

/-! ### The bytes of a store -/

/-- A store keeps the canonical form. -/
theorem Memory.wf_writeLE {m : Memory} (h : m.wf = true) (a n : Nat) (v : Word) : (m.writeLE a n v).wf = true := by
  induction n generalizing m a v with
  | zero => exact h
  | succ n ih => exact ih (Memory.wf_write h a _) (a + 1) (v >>> 8)

/-- A store whose bytes are all below the capacity lists no byte at the capacity or above. -/
theorem Memory.within_writeLE {m : Memory} {cap : Nat} (h : m.within cap = true) {a n : Nat} (ha : a + n ≤ cap)
    (v : Word) : (m.writeLE a n v).within cap = true := by
  induction n generalizing m a v with
  | zero => exact h
  | succ n ih => exact ih (Memory.within_write h (by omega) _) (by omega) (v >>> 8)

/-- Every byte outside a store is as before. -/
theorem Memory.read_writeLE_outside {m : Memory} (h : m.wf = true) {a n b : Nat} (hb : b < a ∨ a + n ≤ b) (v : Word) :
    (m.writeLE a n v).read b = m.read b := by
  induction n generalizing m a v with
  | zero => rfl
  | succ n ih =>
    simp only [Memory.writeLE]
    rw [ih (Memory.wf_write h a _) (by omega), Memory.read_write h, if_neg (by omega)]

/-- The k-th byte of a store holds bits 8k+7 to 8k of the value. -/
theorem Memory.read_writeLE_inside {m : Memory} (h : m.wf = true) {a n k : Nat} (hk : k < n) (v : Word) :
    (m.writeLE a n v).read (a + k) = v.extractLsb' (8 * k) 8 := by
  induction n generalizing m a v k with
  | zero => omega
  | succ n ih =>
    simp only [Memory.writeLE]
    rcases k with _ | k
    · rw [Memory.read_writeLE_outside (Memory.wf_write h a _) (by omega), Memory.read_write h]
      simp only [Nat.add_zero, if_true]
      apply BitVec.eq_of_getLsbD_eq
      intro i hi
      simp [hi]
    · have := ih (Memory.wf_write h a (v.setWidth 8)) (a := a + 1) (k := k) (by omega) (v >>> 8)
      rw [show a + (k + 1) = a + 1 + k by omega, this]
      apply BitVec.eq_of_getLsbD_eq
      intro i hi
      simp [hi]
      congr 1
      omega

/-- The bytes that a memory holds from a list of cells are canonical. -/
theorem Memory.wf_ofCells (cap : Nat) (cells : List Host.Cell) : (Memory.ofCells cap cells).wf = true := by
  unfold Memory.ofCells
  suffices ∀ m : Memory, m.wf = true →
      (cells.foldl (fun m c => if c.1 < cap then Memory.write m c.1 c.2 else m) m).wf = true from this [] rfl
  induction cells with
  | nil => exact fun m h => h
  | cons c cells ih =>
    intro m h
    apply ih
    dsimp only
    split
    · exact Memory.wf_write h _ _
    · exact h

/-- ... and all below the capacity. -/
theorem Memory.within_ofCells (cap : Nat) (cells : List Host.Cell) : (Memory.ofCells cap cells).within cap = true := by
  unfold Memory.ofCells
  suffices ∀ m : Memory, m.within cap = true →
      (cells.foldl (fun m c => if c.1 < cap then Memory.write m c.1 c.2 else m) m).within cap = true from this [] rfl
  induction cells with
  | nil => exact fun m h => h
  | cons c cells ih =>
    intro m h
    apply ih
    dsimp only
    split
    · exact Memory.within_write h (by assumption) _
    · exact h

end Sys2Proof.Machine
end

