-- ==== Sys2Proof/Laws/State.lean ====
section
/-! SUPPORT. One lemma per field per update of the state, so that no proof unfolds a record update. -/

namespace Sys2Proof.Machine

@[simp] theorem State.serve_cfg (s : State) (v : Served) : (s.serve v).cfg = s.cfg := rfl
@[simp] theorem State.serve_regs (s : State) (v : Served) : (s.serve v).regs = s.regs := rfl
@[simp] theorem State.serve_pc (s : State) (v : Served) : (s.serve v).pc = s.pc := rfl
@[simp] theorem State.serve_mem (s : State) (v : Served) : (s.serve v).mem = s.mem := rfl
@[simp] theorem State.serve_program (s : State) (v : Served) : (s.serve v).program = s.program := rfl
@[simp] theorem State.serve_progValid (s : State) (v : Served) : (s.serve v).progValid = s.progValid := rfl
@[simp] theorem State.serve_status (s : State) (v : Served) : (s.serve v).status = s.status := rfl
@[simp] theorem State.serve_served (s : State) (v : Served) : (s.serve v).served = v := rfl
@[simp] theorem State.serve_inputs (s : State) (v : Served) : (s.serve v).inputs = s.inputs := rfl
@[simp] theorem State.serve_reply (s : State) (v : Served) : (s.serve v).reply = s.reply := rfl
@[simp] theorem State.serve_portScript (s : State) (v : Served) : (s.serve v).portScript = s.portScript := rfl
@[simp] theorem State.serve_requests (s : State) (v : Served) : (s.serve v).requests = s.requests := rfl
@[simp] theorem State.serve_draws (s : State) (v : Served) : (s.serve v).draws = s.draws := rfl

@[simp] theorem State.writeMem_cfg (s : State) (a n : Nat) (v : Word) : (s.writeMem a n v).cfg = s.cfg := rfl
@[simp] theorem State.writeMem_regs (s : State) (a n : Nat) (v : Word) : (s.writeMem a n v).regs = s.regs := rfl
@[simp] theorem State.writeMem_pc (s : State) (a n : Nat) (v : Word) : (s.writeMem a n v).pc = s.pc := rfl
@[simp] theorem State.writeMem_mem (s : State) (a n : Nat) (v : Word) : (s.writeMem a n v).mem = s.mem.writeLE a n v := rfl
@[simp] theorem State.writeMem_program (s : State) (a n : Nat) (v : Word) : (s.writeMem a n v).program = s.program := rfl
@[simp] theorem State.writeMem_progValid (s : State) (a n : Nat) (v : Word) : (s.writeMem a n v).progValid = s.progValid := rfl
@[simp] theorem State.writeMem_status (s : State) (a n : Nat) (v : Word) : (s.writeMem a n v).status = s.status := rfl
@[simp] theorem State.writeMem_served (s : State) (a n : Nat) (v : Word) : (s.writeMem a n v).served = s.served := rfl
@[simp] theorem State.writeMem_inputs (s : State) (a n : Nat) (v : Word) : (s.writeMem a n v).inputs = s.inputs := rfl
@[simp] theorem State.writeMem_reply (s : State) (a n : Nat) (v : Word) : (s.writeMem a n v).reply = s.reply := rfl
@[simp] theorem State.writeMem_portScript (s : State) (a n : Nat) (v : Word) : (s.writeMem a n v).portScript = s.portScript := rfl
@[simp] theorem State.writeMem_requests (s : State) (a n : Nat) (v : Word) : (s.writeMem a n v).requests = s.requests := rfl
@[simp] theorem State.writeMem_draws (s : State) (a n : Nat) (v : Word) : (s.writeMem a n v).draws = s.draws := rfl

@[simp] theorem State.endRun_cfg (s : State) : (s.endRun).cfg = s.cfg := rfl
@[simp] theorem State.endRun_regs (s : State) : (s.endRun).regs = s.regs := rfl
@[simp] theorem State.endRun_pc (s : State) : (s.endRun).pc = s.pc := rfl
@[simp] theorem State.endRun_mem (s : State) : (s.endRun).mem = s.mem := rfl
@[simp] theorem State.endRun_program (s : State) : (s.endRun).program = s.program := rfl
@[simp] theorem State.endRun_progValid (s : State) : (s.endRun).progValid = s.progValid := rfl
@[simp] theorem State.endRun_status (s : State) : (s.endRun).status = .halted := rfl
@[simp] theorem State.endRun_served (s : State) : (s.endRun).served = s.served := rfl
@[simp] theorem State.endRun_inputs (s : State) : (s.endRun).inputs = s.inputs := rfl
@[simp] theorem State.endRun_reply (s : State) : (s.endRun).reply = some .ok := rfl
@[simp] theorem State.endRun_portScript (s : State) : (s.endRun).portScript = s.portScript := rfl
@[simp] theorem State.endRun_requests (s : State) : (s.endRun).requests = s.requests := rfl
@[simp] theorem State.endRun_draws (s : State) : (s.endRun).draws = s.draws := rfl

@[simp] theorem State.sendRequest_cfg (s : State) (q : QReq) : (s.sendRequest q).cfg = s.cfg := rfl
@[simp] theorem State.sendRequest_regs (s : State) (q : QReq) : (s.sendRequest q).regs = s.regs := rfl
@[simp] theorem State.sendRequest_pc (s : State) (q : QReq) : (s.sendRequest q).pc = s.pc := rfl
@[simp] theorem State.sendRequest_mem (s : State) (q : QReq) : (s.sendRequest q).mem = s.mem := rfl
@[simp] theorem State.sendRequest_program (s : State) (q : QReq) : (s.sendRequest q).program = s.program := rfl
@[simp] theorem State.sendRequest_progValid (s : State) (q : QReq) : (s.sendRequest q).progValid = s.progValid := rfl
@[simp] theorem State.sendRequest_status (s : State) (q : QReq) : (s.sendRequest q).status = s.status := rfl
@[simp] theorem State.sendRequest_served (s : State) (q : QReq) : (s.sendRequest q).served = s.served := rfl
@[simp] theorem State.sendRequest_inputs (s : State) (q : QReq) : (s.sendRequest q).inputs = s.inputs := rfl
@[simp] theorem State.sendRequest_reply (s : State) (q : QReq) : (s.sendRequest q).reply = s.reply := rfl
@[simp] theorem State.sendRequest_portScript (s : State) (q : QReq) : (s.sendRequest q).portScript = s.portScript := rfl
@[simp] theorem State.sendRequest_requests (s : State) (q : QReq) : (s.sendRequest q).requests = s.requests ++ [q] := rfl
@[simp] theorem State.sendRequest_draws (s : State) (q : QReq) : (s.sendRequest q).draws = s.draws := rfl

@[simp] theorem State.writeReg_cfg (s : State) (i : RegIdx) (v : Word) : (s.writeReg i v).cfg = s.cfg := by
 unfold State.writeReg; split <;> rfl
@[simp] theorem State.writeReg_pc (s : State) (i : RegIdx) (v : Word) : (s.writeReg i v).pc = s.pc := by
 unfold State.writeReg; split <;> rfl
@[simp] theorem State.writeReg_mem (s : State) (i : RegIdx) (v : Word) : (s.writeReg i v).mem = s.mem := by
 unfold State.writeReg; split <;> rfl
@[simp] theorem State.writeReg_program (s : State) (i : RegIdx) (v : Word) : (s.writeReg i v).program = s.program := by
 unfold State.writeReg; split <;> rfl
@[simp] theorem State.writeReg_progValid (s : State) (i : RegIdx) (v : Word) : (s.writeReg i v).progValid = s.progValid := by
 unfold State.writeReg; split <;> rfl
@[simp] theorem State.writeReg_status (s : State) (i : RegIdx) (v : Word) : (s.writeReg i v).status = s.status := by
 unfold State.writeReg; split <;> rfl
@[simp] theorem State.writeReg_served (s : State) (i : RegIdx) (v : Word) : (s.writeReg i v).served = s.served := by
 unfold State.writeReg; split <;> rfl
@[simp] theorem State.writeReg_inputs (s : State) (i : RegIdx) (v : Word) : (s.writeReg i v).inputs = s.inputs := by
 unfold State.writeReg; split <;> rfl
@[simp] theorem State.writeReg_reply (s : State) (i : RegIdx) (v : Word) : (s.writeReg i v).reply = s.reply := by
 unfold State.writeReg; split <;> rfl
@[simp] theorem State.writeReg_portScript (s : State) (i : RegIdx) (v : Word) : (s.writeReg i v).portScript = s.portScript := by
 unfold State.writeReg; split <;> rfl
@[simp] theorem State.writeReg_requests (s : State) (i : RegIdx) (v : Word) : (s.writeReg i v).requests = s.requests := by
 unfold State.writeReg; split <;> rfl
@[simp] theorem State.writeReg_draws (s : State) (i : RegIdx) (v : Word) : (s.writeReg i v).draws = s.draws := by
 unfold State.writeReg; split <;> rfl

@[simp] theorem State.takeError_cfg (s : State) (e : ErrorKind) : (s.takeError e).cfg = s.cfg := by
 unfold State.takeError; split <;> rfl
@[simp] theorem State.takeError_regs (s : State) (e : ErrorKind) : (s.takeError e).regs = s.regs := by
 unfold State.takeError; split <;> rfl
@[simp] theorem State.takeError_pc (s : State) (e : ErrorKind) : (s.takeError e).pc = s.pc := by
 unfold State.takeError; split <;> rfl
@[simp] theorem State.takeError_mem (s : State) (e : ErrorKind) : (s.takeError e).mem = s.mem := by
 unfold State.takeError; split <;> rfl
@[simp] theorem State.takeError_program (s : State) (e : ErrorKind) : (s.takeError e).program = s.program := by
 unfold State.takeError; split <;> rfl
@[simp] theorem State.takeError_progValid (s : State) (e : ErrorKind) : (s.takeError e).progValid = s.progValid := by
 unfold State.takeError; split <;> rfl
@[simp] theorem State.takeError_served (s : State) (e : ErrorKind) : (s.takeError e).served = s.served := by
 unfold State.takeError; split <;> rfl
@[simp] theorem State.takeError_inputs (s : State) (e : ErrorKind) : (s.takeError e).inputs = s.inputs := by
 unfold State.takeError; split <;> rfl
@[simp] theorem State.takeError_portScript (s : State) (e : ErrorKind) : (s.takeError e).portScript = s.portScript := by
 unfold State.takeError; split <;> rfl
@[simp] theorem State.takeError_requests (s : State) (e : ErrorKind) : (s.takeError e).requests = s.requests := by
 unfold State.takeError; split <;> rfl
@[simp] theorem State.takeError_draws (s : State) (e : ErrorKind) : (s.takeError e).draws = s.draws := by
 unfold State.takeError; split <;> rfl

@[simp] theorem State.takeNext_cfg (s : State) (n : Next) : (s.takeNext n).cfg = s.cfg := by
 unfold State.takeNext; repeat (first | rfl | split)
@[simp] theorem State.takeNext_regs (s : State) (n : Next) : (s.takeNext n).regs = s.regs := by
 unfold State.takeNext; repeat (first | rfl | split)
@[simp] theorem State.takeNext_mem (s : State) (n : Next) : (s.takeNext n).mem = s.mem := by
 unfold State.takeNext; repeat (first | rfl | split)
@[simp] theorem State.takeNext_program (s : State) (n : Next) : (s.takeNext n).program = s.program := by
 unfold State.takeNext; repeat (first | rfl | split)
@[simp] theorem State.takeNext_progValid (s : State) (n : Next) : (s.takeNext n).progValid = s.progValid := by
 unfold State.takeNext; repeat (first | rfl | split)
@[simp] theorem State.takeNext_served (s : State) (n : Next) : (s.takeNext n).served = s.served := by
 unfold State.takeNext; repeat (first | rfl | split)
@[simp] theorem State.takeNext_inputs (s : State) (n : Next) : (s.takeNext n).inputs = s.inputs := by
 unfold State.takeNext; repeat (first | rfl | split)
@[simp] theorem State.takeNext_portScript (s : State) (n : Next) : (s.takeNext n).portScript = s.portScript := by
 unfold State.takeNext; repeat (first | rfl | split)
@[simp] theorem State.takeNext_requests (s : State) (n : Next) : (s.takeNext n).requests = s.requests := by
 unfold State.takeNext; repeat (first | rfl | split)
@[simp] theorem State.takeNext_draws (s : State) (n : Next) : (s.takeNext n).draws = s.draws := by
 unfold State.takeNext; repeat (first | rfl | split)

@[simp] theorem State.applyMem_cfg (s : State) (w : Option (Nat × Nat × Word)) : (s.applyMem w).cfg = s.cfg := by
 unfold State.applyMem; split <;> rfl
@[simp] theorem State.applyMem_regs (s : State) (w : Option (Nat × Nat × Word)) : (s.applyMem w).regs = s.regs := by
 unfold State.applyMem; split <;> rfl
@[simp] theorem State.applyMem_pc (s : State) (w : Option (Nat × Nat × Word)) : (s.applyMem w).pc = s.pc := by
 unfold State.applyMem; split <;> rfl
@[simp] theorem State.applyMem_program (s : State) (w : Option (Nat × Nat × Word)) : (s.applyMem w).program = s.program := by
 unfold State.applyMem; split <;> rfl
@[simp] theorem State.applyMem_progValid (s : State) (w : Option (Nat × Nat × Word)) : (s.applyMem w).progValid = s.progValid := by
 unfold State.applyMem; split <;> rfl
@[simp] theorem State.applyMem_status (s : State) (w : Option (Nat × Nat × Word)) : (s.applyMem w).status = s.status := by
 unfold State.applyMem; split <;> rfl
@[simp] theorem State.applyMem_served (s : State) (w : Option (Nat × Nat × Word)) : (s.applyMem w).served = s.served := by
 unfold State.applyMem; split <;> rfl
@[simp] theorem State.applyMem_inputs (s : State) (w : Option (Nat × Nat × Word)) : (s.applyMem w).inputs = s.inputs := by
 unfold State.applyMem; split <;> rfl
@[simp] theorem State.applyMem_reply (s : State) (w : Option (Nat × Nat × Word)) : (s.applyMem w).reply = s.reply := by
 unfold State.applyMem; split <;> rfl
@[simp] theorem State.applyMem_portScript (s : State) (w : Option (Nat × Nat × Word)) : (s.applyMem w).portScript = s.portScript := by
 unfold State.applyMem; split <;> rfl
@[simp] theorem State.applyMem_requests (s : State) (w : Option (Nat × Nat × Word)) : (s.applyMem w).requests = s.requests := by
 unfold State.applyMem; split <;> rfl
@[simp] theorem State.applyMem_draws (s : State) (w : Option (Nat × Nat × Word)) : (s.applyMem w).draws = s.draws := by
 unfold State.applyMem; split <;> rfl

@[simp] theorem State.applyReg_cfg (s : State) (w : Option (RegIdx × Word)) : (s.applyReg w).cfg = s.cfg := by
 unfold State.applyReg; split <;> simp
@[simp] theorem State.applyReg_pc (s : State) (w : Option (RegIdx × Word)) : (s.applyReg w).pc = s.pc := by
 unfold State.applyReg; split <;> simp
@[simp] theorem State.applyReg_mem (s : State) (w : Option (RegIdx × Word)) : (s.applyReg w).mem = s.mem := by
 unfold State.applyReg; split <;> simp
@[simp] theorem State.applyReg_program (s : State) (w : Option (RegIdx × Word)) : (s.applyReg w).program = s.program := by
 unfold State.applyReg; split <;> simp
@[simp] theorem State.applyReg_progValid (s : State) (w : Option (RegIdx × Word)) : (s.applyReg w).progValid = s.progValid := by
 unfold State.applyReg; split <;> simp
@[simp] theorem State.applyReg_status (s : State) (w : Option (RegIdx × Word)) : (s.applyReg w).status = s.status := by
 unfold State.applyReg; split <;> simp
@[simp] theorem State.applyReg_served (s : State) (w : Option (RegIdx × Word)) : (s.applyReg w).served = s.served := by
 unfold State.applyReg; split <;> simp
@[simp] theorem State.applyReg_inputs (s : State) (w : Option (RegIdx × Word)) : (s.applyReg w).inputs = s.inputs := by
 unfold State.applyReg; split <;> simp
@[simp] theorem State.applyReg_reply (s : State) (w : Option (RegIdx × Word)) : (s.applyReg w).reply = s.reply := by
 unfold State.applyReg; split <;> simp
@[simp] theorem State.applyReg_portScript (s : State) (w : Option (RegIdx × Word)) : (s.applyReg w).portScript = s.portScript := by
 unfold State.applyReg; split <;> simp
@[simp] theorem State.applyReg_requests (s : State) (w : Option (RegIdx × Word)) : (s.applyReg w).requests = s.requests := by
 unfold State.applyReg; split <;> simp
@[simp] theorem State.applyReg_draws (s : State) (w : Option (RegIdx × Word)) : (s.applyReg w).draws = s.draws := by
 unfold State.applyReg; split <;> simp

@[simp] theorem State.applyMem_none (s : State) : s.applyMem none = s := rfl
@[simp] theorem State.applyReg_none (s : State) : s.applyReg none = s := rfl
@[simp] theorem State.applyMem_some (s : State) (a n : Nat) (v : Word) : s.applyMem (some (a, n, v)) = s.writeMem a n v := rfl
@[simp] theorem State.applyReg_some (s : State) (i : RegIdx) (v : Word) : s.applyReg (some (i, v)) = s.writeReg i v := rfl

end Sys2Proof.Machine
end

