-- ==== Sys2Proof/Laws/Ops.lean ====
section
/-! SUPPORT. What the shared operations do: registers, bounds and target checks, commit, error delivery, and the outcome
of an instruction. -/

namespace Sys2Proof.Machine

/-! ### Registers (R32, R33) -/

@[simp] theorem State.readReg_zero (s : State) : s.readReg 0 = 0 := rfl

theorem State.readReg_congr {s t : State} (h : t.regs = s.regs) (r : RegIdx) : t.readReg r = s.readReg r := by
  simp [State.readReg, h]

@[simp] theorem State.writeReg_regs_length (s : State) (i : RegIdx) (v : Word) :
    (s.writeReg i v).regs.length = s.regs.length := by
  unfold State.writeReg; split <;> simp

@[simp] theorem State.applyReg_regs_length (s : State) (w : Option (RegIdx × Word)) :
    (s.applyReg w).regs.length = s.regs.length := by
  unfold State.applyReg; split <;> simp

/-- A register write: the register written, every other register as before. -/
theorem State.readReg_writeReg {s : State} {i : RegIdx} (hi : i.toNat < s.regs.length) (v : Word) (r : RegIdx) :
    (s.writeReg i v).readReg r = if r = i then (if i = 0 then 0 else v) else s.readReg r := by
  by_cases h0 : i = 0
  · subst h0
    by_cases hr : r = 0
    · subst hr; rfl
    · rw [if_neg hr]; rfl
  · have hw : (s.writeReg i v).regs = s.regs.set i.toNat v := by unfold State.writeReg; rw [if_neg h0]
    unfold State.readReg
    rw [hw]
    by_cases hr : r = i
    · subst hr
      rw [if_neg h0, if_pos rfl, if_neg h0, List.getD_eq_getElem?_getD, List.getElem?_set_self hi]
      rfl
    · have : i.toNat ≠ r.toNat := fun h => hr (BitVec.eq_of_toNat_eq h.symm)
      rw [if_neg hr, List.getD_eq_getElem?_getD, List.getElem?_set_ne this, ← List.getD_eq_getElem?_getD]

theorem State.writesReg_writeReg {s : State} {i : RegIdx} (hi : i.toNat < s.regs.length) (v : Word) :
    WritesReg s (s.writeReg i v) i v :=
  ⟨by simp, by rw [State.readReg_writeReg hi, if_pos rfl], fun r hr => by
    rw [State.readReg_writeReg hi, if_neg hr]⟩

/-! ### Checks (R63, R146) -/

theorem checkBounds_ok {p : Params} {a : Int} {n : Nat} (h0 : 0 ≤ a) (h1 : a + n ≤ p.memCapacity) :
    checkBounds p a n = .ok a.toNat := by
  unfold checkBounds; rw [if_neg (by omega)]

theorem checkBounds_error {p : Params} {a : Int} {n : Nat} (h : a < 0 ∨ a + n > p.memCapacity) :
    checkBounds p a n = .error (.raise (.memoryOutOfBounds a n)) := by
  unfold checkBounds; rw [if_pos h]

/-- The bounds check passes an address in bounds, or raises. -/
theorem checkBounds_cases (p : Params) (a : Int) (n : Nat) :
    (∃ b : Nat, checkBounds p a n = .ok b ∧ (b : Int) = a ∧ b + n ≤ p.memCapacity) ∨
      checkBounds p a n = .error (.raise (.memoryOutOfBounds a n)) := by
  by_cases h : a < 0 ∨ a + n > p.memCapacity
  · exact .inr (checkBounds_error h)
  · exact .inl ⟨a.toNat, checkBounds_ok (by omega) (by omega), by omega, by omega⟩

theorem checkTarget_ok {s : State} {t : Int} (h0 : 0 ≤ t) (h1 : t ≤ s.len) : checkTarget s t = .ok (.pc t) := by
  unfold checkTarget
  split
  · rfl
  · rw [if_pos ⟨h0, h1⟩]

theorem checkTarget_outside {s : State} {t : Int} (hs : s.served = .run) (h : ¬(0 ≤ t ∧ t ≤ s.len)) :
    checkTarget s t =
      match s.cfg.jumpPastEnd with
      | .fault => .error (.raise (.pcOutOfRange t))
      | .halt => .ok .halt := by
  unfold checkTarget
  rw [hs]
  dsimp only
  exact (if_neg h).trans (by cases s.cfg.jumpPastEnd <;> rfl)

/-- A checked target is in [0, len], or Halt, or unchecked (an ad-hoc instruction), or raises. -/
theorem checkTarget_cases (s : State) (t : Int) :
    (checkTarget s t = .ok (.pc t) ∧ ((0 ≤ t ∧ t ≤ s.len) ∨ ∃ p l, s.served = .adhoc p l)) ∨
      checkTarget s t = .ok .halt ∨ checkTarget s t = .error (.raise (.pcOutOfRange t)) := by
  unfold checkTarget
  split
  · rename_i p l h
    exact .inl ⟨rfl, .inr ⟨p, l, h⟩⟩
  · split
    · rename_i h
      exact .inl ⟨rfl, .inl h⟩
    · split
      · exact .inr (.inr rfl)
      · exact .inr (.inl rfl)

/-! ### Commit (R142, R144) -/

theorem State.commit_regs (s : State) (r : Result) : (s.commit r).regs = (s.applyReg r.regWrite).regs := by
  unfold State.commit
  rw [State.takeNext_regs]
  unfold State.applyReg
  split
  · simp
  · unfold State.writeReg
    split <;> simp

theorem State.commit_mem (s : State) (r : Result) : (s.commit r).mem = (s.applyMem r.memWrite).mem := by
  simp [State.commit]

theorem State.commit_store (s : State) (r : Result) : SameStore s (s.commit r) := by
  simp [SameStore, State.commit]

theorem State.commit_port (s : State) (r : Result) : SamePort s (s.commit r) := by
  simp [SamePort, State.commit]

theorem State.takeNext_goesTo {s : State} (hs : s.served = .run) (n : Int) : GoesTo s (s.takeNext (.pc n)) n := by
  unfold GoesTo State.takeNext
  rw [hs]
  dsimp only
  split <;> simp

theorem State.commit_goesTo {s : State} (hs : s.served = .run) {r : Result} {n : Int} (hn : r.next = .pc n) :
    GoesTo s (s.commit r) n := by
  have h := State.takeNext_goesTo (s := (s.applyMem r.memWrite).applyReg r.regWrite) (by simpa using hs) n
  have hl : ((s.applyMem r.memWrite).applyReg r.regWrite).len = s.len := by simp [State.len]
  unfold GoesTo at h ⊢
  unfold State.commit
  rw [hl, State.applyReg_status, State.applyMem_status, State.applyReg_reply, State.applyMem_reply] at h
  rw [hn]
  exact h

theorem State.seqNext_run {s : State} (hs : s.served = .run) : s.seqNext = .pc ((s.pc.toNat : Int) + 1) := by
  simp [State.seqNext, State.instrPc, hs]

theorem State.instrPc_run {s : State} (hs : s.served = .run) : s.instrPc = s.pc := by
  simp [State.instrPc, hs]

theorem State.link_run {s : State} (hs : s.served = .run) : s.link = u64 ((s.pc.toNat : Int) + 1) := by
  simp [State.link, State.instrPc, hs]

/-- A commit that writes only a register writes only that register. -/
theorem State.commit_writesReg {s : State} {r : Result} {rd : RegIdx} {v : Word} (hrd : rd.toNat < s.regs.length)
    (hr : r.regWrite = some (rd, v)) : WritesReg s (s.commit r) rd v := by
  have h := State.writesReg_writeReg (s := s) hrd v
  have hregs : (s.commit r).regs = (s.writeReg rd v).regs := by rw [State.commit_regs, hr]; rfl
  refine ⟨by rw [hregs]; exact h.1, ?_, fun q hq => ?_⟩
  · rw [State.readReg_congr hregs]; exact h.2.1
  · rw [State.readReg_congr hregs]; exact h.2.2 q hq

theorem State.commit_sameRegs {s : State} {r : Result} (hr : r.regWrite = none) : SameRegs s (s.commit r) := by
  have hregs : (s.commit r).regs = s.regs := by rw [State.commit_regs, hr]; rfl
  exact ⟨by rw [hregs], fun q => State.readReg_congr hregs q⟩

theorem State.commit_sameMem {s : State} {r : Result} (hr : r.memWrite = none) : SameMem s (s.commit r) := by
  intro a
  rw [State.commit_mem, hr]; rfl

theorem State.commit_writesBytes {s : State} {r : Result} {a n : Nat} {v : Word} (hm : s.mem.wf = true)
    (hr : r.memWrite = some (a, n, v)) : WritesBytes s (s.commit r) a n v := by
  have hmem : (s.commit r).mem = s.mem.writeLE a n v := by rw [State.commit_mem, hr]; rfl
  exact ⟨fun k hk => by rw [hmem, Memory.read_writeLE_inside hm hk],
    fun b hb => by rw [hmem, Memory.read_writeLE_outside hm hb]⟩

/-! ### Taking an error (R142, R148, R331, R332) -/

@[simp] theorem State.takeError_run_status {s : State} (hs : s.served = .run) (e : ErrorKind) :
    (s.takeError e).status = .failed (s.errorRecord e) := by
  simp [State.takeError, hs]

@[simp] theorem State.takeError_run_reply {s : State} (hs : s.served = .run) (e : ErrorKind) :
    (s.takeError e).reply = some (.error (s.errorRecord e)) := by
  simp [State.takeError, hs]

theorem State.takeError_failedBy {s : State} (hs : s.served = .run) (e : ErrorKind) : FailedBy s (s.takeError e) e :=
  ⟨⟨by simp, fun r => State.readReg_congr (by simp) r⟩, fun a => by simp, by simp [SameStore], by simp,
    s.errorRecord e, rfl, by simp [State.errorRecord, hs], by simp [hs], by simp [hs]⟩

theorem State.takeError_port (s : State) (e : ErrorKind) : SamePort s (s.takeError e) := by
  simp [SamePort]

/-! ### The outcome of an instruction -/

@[simp] theorem State.finish_ok (s : State) (r : Result) : s.finish (.ok r) = .next (s.commit r) := rfl

@[simp] theorem State.finish_raise (s : State) (e : ErrorKind) : s.finish (.error (.raise e)) = .next (s.takeError e) := rfl

@[simp] theorem State.finish_unmodelled (s : State) (r : Reason) :
    s.finish (.error (.unmodelled r)) = .fault (.unmodelled r s.instrPc) := rfl

/-- An instruction of a run whose record writes `v` to `rd` and goes on completes so. -/
theorem completesWith_of_writeRd {i : Instr} {s : State} {rd : RegIdx} {v : Word} (hs : s.served = .run)
    (hrd : rd.toNat < s.regs.length) (h : exec i s = s.finish (.ok (s.writeRd rd v))) : CompletesWith i s rd v :=
  ⟨_, h, State.commit_writesReg hrd rfl, State.commit_sameMem rfl, State.commit_store _ _, State.commit_port _ _,
    State.commit_goesTo hs (State.seqNext_run hs)⟩

/-- An instruction of a run whose record only goes to `n` does only that. -/
theorem onlyGoesTo_of_next {i : Instr} {s : State} {n : Int} (hs : s.served = .run)
    (h : exec i s = s.finish (.ok { next := .pc n })) : OnlyGoesTo i s n :=
  ⟨_, h, State.commit_sameRegs rfl, State.commit_sameMem rfl, State.commit_store _ _, State.commit_port _ _,
    State.commit_goesTo hs rfl⟩

/-- An instruction of a run that raises fails the run. -/
theorem raises_of_error {i : Instr} {s : State} {e : ErrorKind} (hs : s.served = .run)
    (h : exec i s = s.finish (.error (.raise e))) : Raises i s e :=
  ⟨_, h, State.takeError_failedBy hs e, State.takeError_port s e⟩

/-! ### The quantum port call (R300, R301) -/

theorem State.callPlain_draw {s : State} (h : s.portScript = []) (q : QReq) :
    s.callPlain q = .next ({ s.sendRequest q with draws := s.draws + 1 }.settle (plainDraw s q)) := by
  rw [State.callPlain, h]

theorem State.callPlain_answer {s : State} {a : PortAnswer} {rest : List PortAnswer} (h : s.portScript = a :: rest)
    (q : QReq) : s.callPlain q = ({ s.sendRequest q with portScript := rest } : State).finish (plainAnswer s a) := by
  rw [State.callPlain, h]

theorem State.callMeasure_draw {s : State} (h : s.portScript = []) (rd : RegIdx) (q : QReq) :
    s.callMeasure rd q = .next ({ s.sendRequest q with draws := s.draws + 1 }.settle (measureDraw s rd q)) := by
  rw [State.callMeasure, h]

theorem State.callMeasure_answer {s : State} {a : PortAnswer} {rest : List PortAnswer} (h : s.portScript = a :: rest)
    (rd : RegIdx) (q : QReq) :
    s.callMeasure rd q = ({ s.sendRequest q with portScript := rest } : State).finish (measureAnswer s rd a) := by
  rw [State.callMeasure, h]

end Sys2Proof.Machine
end

