-- ==== Sys2Proof/Laws/Exec.lean ====
section
/-! SUPPORT. Everything an instruction can do, said once: it faults as Unmodelled, or it settles a result record or an
error, after at most one call of the quantum port. -/

namespace Sys2Proof.Machine

/-- What a call of the quantum port leaves: nothing called, or a request sent and a free answer drawn or a scripted one
used up (R300, R301). -/
def PortMove (s u : State) : Prop :=
  u = s ∨ (∃ q, s.portScript = [] ∧ u = { s.sendRequest q with draws := s.draws + 1 }) ∨
    ∃ q a rest, s.portScript = a :: rest ∧ u = { s.sendRequest q with portScript := rest }

/-- What a result record of any instruction is like: its next pc is sequential or a checked target, it writes at most one
register, its destination, or one memory range, and a memory write is of 1 to 4 bytes in bounds at its effective address
(R14, R63, R67, R146). -/
def SaneResult (i : Instr) (s : State) (r : Result) : Prop :=
  (r.next = s.seqNext ∨ ∃ t, checkTarget s t = .ok r.next) ∧ (r.regWrite = none ∨ r.memWrite = none) ∧
    (∀ rd v, r.regWrite = some (rd, v) → destination i = some rd) ∧
    ∀ a n v, r.memWrite = some (a, n, v) → a + n ≤ s.cfg.memCapacity ∧ 1 ≤ n ∧ n ≤ 4 ∧
      ∃ rs1 imm, storeOperand i = some (rs1, imm, n) ∧ s.effectiveAddress rs1 imm = a

/-- The two ways an instruction ends. -/
def Settles (i : Instr) (s : State) (o : Host.Outcome State Fault Refusal) : Prop :=
  (∃ why, o = .fault (.unmodelled why s.instrPc)) ∨
    ∃ u r, o = .next (u.settle r) ∧ PortMove s u ∧ ∀ res, r = .ok res → SaneResult i s res

theorem settles_finish {i : Instr} {s : State} {r : Except Trap Result} (h : ∀ res, r = .ok res → SaneResult i s res) :
    Settles i s (s.finish r) := by
  match r, h with
  | .ok res, h => exact .inr ⟨s, .ok res, rfl, .inl rfl, fun res' h' => by cases h'; exact h res rfl⟩
  | .error (.raise e), _ => exact .inr ⟨s, .error e, rfl, .inl rfl, by simp⟩
  | .error (.unmodelled w), _ => exact .inl ⟨w, rfl⟩

/-- A result record that writes no memory, and no register but the destination, is sane if its next pc is. -/
theorem sane_of_register {i : Instr} {s : State} {r : Result}
    (hn : r.next = s.seqNext ∨ ∃ t, checkTarget s t = .ok r.next) (hm : r.memWrite = none)
    (hr : ∀ rd v, r.regWrite = some (rd, v) → destination i = some rd) : SaneResult i s r :=
  ⟨hn, .inr hm, hr, by simp [hm]⟩

theorem sane_writeRd {i : Instr} (s : State) {rd : RegIdx} (v : Word) (hd : destination i = some rd) :
    SaneResult i s (s.writeRd rd v) :=
  sane_of_register (.inl rfl) rfl fun _ _ h => by cases h; exact hd

theorem sane_aluResult {i : Instr} (s : State) {rd : RegIdx} (hd : destination i = some rd) (v : Except Trap Word)
    (res : Result) (h : s.aluResult rd v = .ok res) : SaneResult i s res := by
  unfold State.aluResult at h
  split at h
  · cases h; exact sane_writeRd s _ hd
  · cases h

theorem sane_jumpResult {i : Instr} (s : State) {rd : RegIdx} (hd : destination i = some rd) (t : Int) (res : Result)
    (h : s.jumpResult rd t = .ok res) : SaneResult i s res := by
  unfold State.jumpResult at h
  split at h
  · rename_i n hn
    cases h
    exact sane_of_register (.inr ⟨t, hn⟩) rfl fun _ _ h => by cases h; exact hd
  · cases h

theorem sane_branchResult {i : Instr} (s : State) (c : Bool) (imm : Int) (res : Result)
    (h : s.branchResult c imm = .ok res) : SaneResult i s res := by
  unfold State.branchResult at h
  split at h
  · split at h
    · rename_i n hn
      cases h
      exact sane_of_register (.inr ⟨_, hn⟩) rfl (by simp)
    · cases h
  · cases h
    exact sane_of_register (.inl rfl) rfl (by simp)

theorem sane_loadResult {i : Instr} (s : State) (n : Nat) (ext : Nat → Word) {rd rs1 : RegIdx} {imm : Int}
    (hd : destination i = some rd) (res : Result) (h : s.loadResult n ext rd rs1 imm = .ok res) : SaneResult i s res := by
  unfold State.loadResult at h
  split at h
  · cases h; exact sane_writeRd s _ hd
  · cases h

theorem sane_storeResult {i : Instr} (s : State) {n : Nat} (hn : 1 ≤ n ∧ n ≤ 4) {rs2 rs1 : RegIdx} {imm : Int}
    (hs : storeOperand i = some (rs1, imm, n)) (res : Result) (h : s.storeResult n rs2 rs1 imm = .ok res) :
    SaneResult i s res := by
  unfold State.storeResult at h
  rcases checkBounds_cases s.cfg (s.effectiveAddress rs1 imm) n with ⟨b, hb, ha, hcap⟩ | hb
  · rw [hb] at h
    cases h
    refine ⟨.inl rfl, .inl rfl, by simp, fun a m v hw => ?_⟩
    cases hw
    exact ⟨hcap, hn.1, hn.2, _, _, hs, ha.symm⟩
  · rw [hb] at h
    cases h

/-- The outcome of a port call settles the answer, on the state the call leaves. -/
theorem settles_finish_port {i : Instr} {s u : State} (hm : PortMove s u) (hpc : u.instrPc = s.instrPc) {r : Except Trap Result}
    (h : ∀ res, r = .ok res → SaneResult i s res) : Settles i s (u.finish r) := by
  match r, h with
  | .ok res, h => exact .inr ⟨u, .ok res, rfl, hm, fun res' h' => by cases h'; exact h res rfl⟩
  | .error (.raise e), _ => exact .inr ⟨u, .error e, rfl, hm, by simp⟩
  | .error (.unmodelled w), _ => exact .inl ⟨w, by rw [State.finish_unmodelled, hpc]⟩

theorem sane_seqNext (i : Instr) (s : State) : SaneResult i s { next := s.seqNext } :=
  sane_of_register (.inl rfl) rfl (by simp)

theorem settles_callPlain (i : Instr) (s : State) (q : QReq) : Settles i s (s.callPlain q) := by
  unfold State.callPlain
  split
  · rename_i hp
    refine .inr ⟨_, _, rfl, .inr (.inl ⟨q, hp, rfl⟩), fun res h => ?_⟩
    unfold plainDraw at h
    split at h
    · cases h; exact sane_seqNext i s
    · cases h
  · rename_i a rest hp
    refine settles_finish_port (.inr (.inr ⟨q, a, rest, hp, rfl⟩)) rfl fun res h => ?_
    unfold plainAnswer at h
    split at h <;> cases h
    exact sane_seqNext i s

theorem settles_callMeasure {i : Instr} (s : State) {rd : RegIdx} (hd : destination i = some rd) (q : QReq) :
    Settles i s (s.callMeasure rd q) := by
  unfold State.callMeasure
  split
  · rename_i hp
    refine .inr ⟨_, _, rfl, .inr (.inl ⟨q, hp, rfl⟩), fun res h => ?_⟩
    unfold measureDraw at h
    split at h
    · cases h
    · split at h
      · cases h; exact sane_seqNext i s
      · cases h; exact sane_writeRd s _ hd
  · rename_i a rest hp
    refine settles_finish_port (.inr (.inr ⟨q, a, rest, hp, rfl⟩)) rfl fun res h => ?_
    unfold measureAnswer at h
    split at h <;> cases h
    · exact sane_seqNext i s
    · exact sane_writeRd s _ hd

/-- EVERYTHING AN INSTRUCTION CAN DO. -/
theorem exec_settles (i : Instr) (s : State) : Settles i s (exec i s) := by
  cases i with
  | add => rw [exec_add]; exact settles_finish (sane_aluResult s rfl _)
  | sub => rw [exec_sub]; exact settles_finish (sane_aluResult s rfl _)
  | and => rw [exec_and]; exact settles_finish (sane_aluResult s rfl _)
  | or => rw [exec_or]; exact settles_finish (sane_aluResult s rfl _)
  | xor => rw [exec_xor]; exact settles_finish (sane_aluResult s rfl _)
  | sll => rw [exec_sll]; exact settles_finish (sane_aluResult s rfl _)
  | srl => rw [exec_srl]; exact settles_finish (sane_aluResult s rfl _)
  | sra => rw [exec_sra]; exact settles_finish (sane_aluResult s rfl _)
  | slt => rw [exec_slt]; exact settles_finish (sane_aluResult s rfl _)
  | sltu => rw [exec_sltu]; exact settles_finish (sane_aluResult s rfl _)
  | addi => rw [exec_addi]; exact settles_finish (sane_aluResult s rfl _)
  | slli => rw [exec_slli]; exact settles_finish (sane_aluResult s rfl _)
  | srli => rw [exec_srli]; exact settles_finish (sane_aluResult s rfl _)
  | srai => rw [exec_srai]; exact settles_finish (sane_aluResult s rfl _)
  | andi => rw [exec_andi]; exact settles_finish (sane_aluResult s rfl _)
  | ori => rw [exec_ori]; exact settles_finish (sane_aluResult s rfl _)
  | xori => rw [exec_xori]; exact settles_finish (sane_aluResult s rfl _)
  | slti => rw [exec_slti]; exact settles_finish (sane_aluResult s rfl _)
  | sltiu => rw [exec_sltiu]; exact settles_finish (sane_aluResult s rfl _)
  | lui => rw [exec_lui]; exact settles_finish (sane_aluResult s rfl _)
  | auipc => rw [exec_auipc]; exact settles_finish (sane_aluResult s rfl _)
  | jal => rw [exec_jal]; exact settles_finish (sane_jumpResult s rfl _)
  | jalr rd rs1 imm =>
    rw [exec_jalr]
    split
    · exact settles_finish (by simp)
    · exact settles_finish (sane_jumpResult s rfl _)
  | beq => rw [exec_beq]; exact settles_finish (sane_branchResult s _ _)
  | bne => rw [exec_bne]; exact settles_finish (sane_branchResult s _ _)
  | blt => rw [exec_blt]; exact settles_finish (sane_branchResult s _ _)
  | bge => rw [exec_bge]; exact settles_finish (sane_branchResult s _ _)
  | bltu => rw [exec_bltu]; exact settles_finish (sane_branchResult s _ _)
  | bgeu => rw [exec_bgeu]; exact settles_finish (sane_branchResult s _ _)
  | lw => rw [exec_lw]; exact settles_finish (sane_loadResult s _ _ rfl)
  | lh => rw [exec_lh]; exact settles_finish (sane_loadResult s _ _ rfl)
  | lb => rw [exec_lb]; exact settles_finish (sane_loadResult s _ _ rfl)
  | lwu => rw [exec_lwu]; exact settles_finish (sane_loadResult s _ _ rfl)
  | lhu => rw [exec_lhu]; exact settles_finish (sane_loadResult s _ _ rfl)
  | lbu => rw [exec_lbu]; exact settles_finish (sane_loadResult s _ _ rfl)
  | sw => rw [exec_sw]; exact settles_finish (sane_storeResult s (by omega) rfl)
  | sh => rw [exec_sh]; exact settles_finish (sane_storeResult s (by omega) rfl)
  | sb => rw [exec_sb]; exact settles_finish (sane_storeResult s (by omega) rfl)
  | qinit => rw [exec_qinit]; exact settles_callPlain _ s _
  | qapply => rw [exec_qapply]; exact settles_callPlain _ s _
  | qentangle => rw [exec_qentangle]; exact settles_callPlain _ s _
  | qmeasure => rw [exec_qmeasure]; exact settles_callMeasure s rfl _

/-- A port call changes nothing but the port's own fields. -/
theorem PortMove.same {s u : State} (h : PortMove s u) :
    u.cfg = s.cfg ∧ u.regs = s.regs ∧ u.pc = s.pc ∧ u.mem = s.mem ∧ u.program = s.program ∧
      u.progValid = s.progValid ∧ u.status = s.status ∧ u.served = s.served ∧ u.inputs = s.inputs ∧
      u.reply = s.reply := by
  rcases h with rfl | ⟨q, -, rfl⟩ | ⟨q, a, rest, -, rfl⟩ <;> simp

end Sys2Proof.Machine
end

