-- ==== Sys2Proof/Laws/PerInstr.lean ====
section
/-! SUPPORT. Per instruction: its DIR carries an opcode id of the table (R112), whose row has the instruction's own
shape, so that decoding starts from the right row. -/

namespace Sys2Proof.Laws.OpcodeField

/-- The opcode field of the instruction's DIR is in the table, and the row's shape gives the instruction back from the
fields it sets. -/
def Statement (i : Instr) : Prop :=
  ∃ row, rowOfOpc (unpackDir (encode i)).opc = some row ∧ shapeOfFields row.shape (instrFields i) = some i

theorem statement_of_row {i : Instr} {row : OpRow} (h : rowOfOpc (instrFields i).opc = some row)
    (hs : shapeOfFields row.shape (instrFields i) = some i) : Statement i :=
  ⟨row, by rw [encode, unpackDir_packDir_opc]; exact h, hs⟩

theorem add (rd rs1 rs2 : RegIdx) : Statement (.add rd rs1 rs2) := statement_of_row rfl rfl
theorem sub (rd rs1 rs2 : RegIdx) : Statement (.sub rd rs1 rs2) := statement_of_row rfl rfl
theorem and (rd rs1 rs2 : RegIdx) : Statement (.and rd rs1 rs2) := statement_of_row rfl rfl
theorem or (rd rs1 rs2 : RegIdx) : Statement (.or rd rs1 rs2) := statement_of_row rfl rfl
theorem xor (rd rs1 rs2 : RegIdx) : Statement (.xor rd rs1 rs2) := statement_of_row rfl rfl
theorem sll (rd rs1 rs2 : RegIdx) : Statement (.sll rd rs1 rs2) := statement_of_row rfl rfl
theorem srl (rd rs1 rs2 : RegIdx) : Statement (.srl rd rs1 rs2) := statement_of_row rfl rfl
theorem sra (rd rs1 rs2 : RegIdx) : Statement (.sra rd rs1 rs2) := statement_of_row rfl rfl
theorem slt (rd rs1 rs2 : RegIdx) : Statement (.slt rd rs1 rs2) := statement_of_row rfl rfl
theorem sltu (rd rs1 rs2 : RegIdx) : Statement (.sltu rd rs1 rs2) := statement_of_row rfl rfl
theorem addi (rd rs1 : RegIdx) (imm : Int) : Statement (.addi rd rs1 imm) := statement_of_row rfl rfl
theorem slli (rd rs1 : RegIdx) (imm : Int) : Statement (.slli rd rs1 imm) := statement_of_row rfl rfl
theorem srli (rd rs1 : RegIdx) (imm : Int) : Statement (.srli rd rs1 imm) := statement_of_row rfl rfl
theorem srai (rd rs1 : RegIdx) (imm : Int) : Statement (.srai rd rs1 imm) := statement_of_row rfl rfl
theorem andi (rd rs1 : RegIdx) (imm : Int) : Statement (.andi rd rs1 imm) := statement_of_row rfl rfl
theorem ori (rd rs1 : RegIdx) (imm : Int) : Statement (.ori rd rs1 imm) := statement_of_row rfl rfl
theorem xori (rd rs1 : RegIdx) (imm : Int) : Statement (.xori rd rs1 imm) := statement_of_row rfl rfl
theorem slti (rd rs1 : RegIdx) (imm : Int) : Statement (.slti rd rs1 imm) := statement_of_row rfl rfl
theorem sltiu (rd rs1 : RegIdx) (imm : Int) : Statement (.sltiu rd rs1 imm) := statement_of_row rfl rfl
theorem lui (rd : RegIdx) (imm : Int) : Statement (.lui rd imm) := statement_of_row rfl rfl
theorem auipc (rd : RegIdx) (imm : Int) : Statement (.auipc rd imm) := statement_of_row rfl rfl
theorem jal (rd : RegIdx) (imm : Int) : Statement (.jal rd imm) := statement_of_row rfl rfl
theorem jalr (rd rs1 : RegIdx) (imm : Int) : Statement (.jalr rd rs1 imm) := statement_of_row rfl rfl
theorem beq (rs1 rs2 : RegIdx) (imm : Int) : Statement (.beq rs1 rs2 imm) := statement_of_row rfl rfl
theorem bne (rs1 rs2 : RegIdx) (imm : Int) : Statement (.bne rs1 rs2 imm) := statement_of_row rfl rfl
theorem blt (rs1 rs2 : RegIdx) (imm : Int) : Statement (.blt rs1 rs2 imm) := statement_of_row rfl rfl
theorem bge (rs1 rs2 : RegIdx) (imm : Int) : Statement (.bge rs1 rs2 imm) := statement_of_row rfl rfl
theorem bltu (rs1 rs2 : RegIdx) (imm : Int) : Statement (.bltu rs1 rs2 imm) := statement_of_row rfl rfl
theorem bgeu (rs1 rs2 : RegIdx) (imm : Int) : Statement (.bgeu rs1 rs2 imm) := statement_of_row rfl rfl
theorem lw (rd rs1 : RegIdx) (imm : Int) : Statement (.lw rd rs1 imm) := statement_of_row rfl rfl
theorem lh (rd rs1 : RegIdx) (imm : Int) : Statement (.lh rd rs1 imm) := statement_of_row rfl rfl
theorem lb (rd rs1 : RegIdx) (imm : Int) : Statement (.lb rd rs1 imm) := statement_of_row rfl rfl
theorem lwu (rd rs1 : RegIdx) (imm : Int) : Statement (.lwu rd rs1 imm) := statement_of_row rfl rfl
theorem lhu (rd rs1 : RegIdx) (imm : Int) : Statement (.lhu rd rs1 imm) := statement_of_row rfl rfl
theorem lbu (rd rs1 : RegIdx) (imm : Int) : Statement (.lbu rd rs1 imm) := statement_of_row rfl rfl
theorem sw (rs2 rs1 : RegIdx) (imm : Int) : Statement (.sw rs2 rs1 imm) := statement_of_row rfl rfl
theorem sh (rs2 rs1 : RegIdx) (imm : Int) : Statement (.sh rs2 rs1 imm) := statement_of_row rfl rfl
theorem sb (rs2 rs1 : RegIdx) (imm : Int) : Statement (.sb rs2 rs1 imm) := statement_of_row rfl rfl
theorem qinit (rd : RegIdx) : Statement (.qinit rd) := statement_of_row rfl rfl
theorem qapply (rd rs1 : RegIdx) (imm : Int) : Statement (.qapply rd rs1 imm) := statement_of_row rfl rfl
theorem qmeasure (rd rs1 : RegIdx) : Statement (.qmeasure rd rs1) := statement_of_row rfl rfl
theorem qentangle (rd rs1 rs2 : RegIdx) : Statement (.qentangle rd rs1 rs2) := statement_of_row rfl rfl

end Sys2Proof.Laws.OpcodeField
end

