-- ==== Sys2Proof/Tests/Slice0.lean ====
section
/-! SUPPORT. Tests of the model: the well-formedness smoke test, a written-out record for every constructor, one-step
vectors of 95_test_vectors.md, and for each statement a state and operands that meet its hypotheses. -/

open Sys2Proof Sys2Proof.Machine

namespace Sys2Proof.Tests

/-- A register file of 32 zeros but for the listed ones. -/
def regsWith (l : List (Nat × Word)) : List Word := l.foldl (fun rs p => rs.set p.1 p.2) (List.replicate 32 0)

/-- A state in a run at `pc`, in a program of `len` records, with the listed registers and bytes not 0. -/
def start (p : Params) (pc len : Nat) (l : List (Nat × Word)) (m : List Host.Cell) : State :=
  { State.construct p with
    pc := BitVec.ofNat 64 pc, regs := regsWith l, mem := m, program := List.replicate len ⟨0, []⟩, progValid := true,
    status := .running }

/-- The spec's default instance at pc 0 in a program of 100 records. -/
def plain (l : List (Nat × Word)) : State := start specDefaults 0 100 l []

/-- `exec i s` answers a next state of which `f` holds. -/
def leads (i : Instr) (s : State) (f : State → Bool) : Bool :=
  match exec i s with
  | .next t => f t
  | .fault _ => false
  | .refused _ => false

/-- `step s` answers a next state of which `f` holds. -/
def steps (s : State) (f : State → Bool) : Bool :=
  match step s with
  | .next t => f t
  | .fault _ => false
  | .refused _ => false

/-- `exec i s` faults with `f`. -/
def faults (i : Instr) (s : State) (f : Fault) : Bool :=
  match exec i s with
  | .next _ => false
  | .fault g => g == f
  | .refused _ => false

/-- `step s` is refused with `r`. -/
def refuses (s : State) (r : Refusal) : Bool :=
  match step s with
  | .next _ => false
  | .fault _ => false
  | .refused q => q == r

/-- `t` is a failed run with the error `e`. -/
def failed (t : State) (e : ErrorKind) : Bool :=
  match t.status with
  | .failed err => err.kind == e
  | .idle => false
  | .running => false
  | .halted => false

/-! ### Well-formedness (R94, R96, R114) -/

theorem test_wf_accepts : WellFormed specDefaults (.addi 31 0 (-2147483648)) = true := by decide
theorem test_wf_rd : WellFormed specDefaults (.add 32 1 2) = false := by decide
theorem test_wf_rs1 : WellFormed specDefaults (.qmeasure 1 32) = false := by decide
theorem test_wf_rs2 : WellFormed specDefaults (.sw 255 1 0) = false := by decide
theorem test_wf_imm_low : WellFormed specDefaults (.beq 0 0 (-2147483649)) = false := by decide
theorem test_wf_imm_high : WellFormed specDefaults (.jal 0 2147483648) = false := by decide

/-! ### Records written out from R110 to R112: imm, rs2, rs1, rd, opc -/

theorem test_dir_rtype :
    decodeDir specDefaults 0x0000000000000000_02010301#96 = .ok (.add 3 1 2) ∧
    decodeDir specDefaults 0x0000000000000000_01000702#96 = .ok (.sub 7 0 1) ∧
    decodeDir specDefaults 0x0000000000000000_02010303#96 = .ok (.and 3 1 2) ∧
    decodeDir specDefaults 0x0000000000000000_06050404#96 = .ok (.or 4 5 6) ∧
    decodeDir specDefaults 0x0000000000000000_06050405#96 = .ok (.xor 4 5 6) := by decide

theorem test_dir_shift_and_set :
    decodeDir specDefaults 0x0000000000000000_06050406#96 = .ok (.sll 4 5 6) ∧
    decodeDir specDefaults 0x0000000000000000_06050407#96 = .ok (.srl 4 5 6) ∧
    decodeDir specDefaults 0x0000000000000000_06050408#96 = .ok (.sra 4 5 6) ∧
    decodeDir specDefaults 0x0000000000000000_00030609#96 = .ok (.slt 6 3 0) ∧
    decodeDir specDefaults 0x0000000000000000_0300050A#96 = .ok (.sltu 5 0 3) := by decide

theorem test_dir_itype :
    decodeDir specDefaults 0x000000000000002A_00000110#96 = .ok (.addi 1 0 42) ∧
    decodeDir specDefaults 0x000000000000003F_00010211#96 = .ok (.slli 2 1 63) ∧
    decodeDir specDefaults 0x000000000000003F_00020412#96 = .ok (.srli 4 2 63) ∧
    decodeDir specDefaults 0x000000000000003F_00020313#96 = .ok (.srai 3 2 63) ∧
    decodeDir specDefaults 0xFFFFFFFFFFFFFF00_00020114#96 = .ok (.andi 1 2 (-256)) := by decide

theorem test_dir_itype_rest :
    decodeDir specDefaults 0xFFFFFFFFFFFFF800_00020115#96 = .ok (.ori 1 2 (-2048)) ∧
    decodeDir specDefaults 0xFFFFFFFFFFFFFFFF_00070816#96 = .ok (.xori 8 7 (-1)) ∧
    decodeDir specDefaults 0xFFFFFFFFFFFFFFFC_00020117#96 = .ok (.slti 1 2 (-4)) ∧
    decodeDir specDefaults 0xFFFFFFFFFFFFFFFF_00070918#96 = .ok (.sltiu 9 7 (-1)) := by decide

theorem test_dir_upper_and_jump :
    decodeDir specDefaults 0x0000000000012345_00000220#96 = .ok (.lui 2 74565) ∧
    decodeDir specDefaults 0x0000000000000001_00000121#96 = .ok (.auipc 1 1) ∧
    decodeDir specDefaults 0xFFFFFFFFFFFFFFFC_00000128#96 = .ok (.jal 1 (-4)) ∧
    decodeDir specDefaults 0x0000000000000000_00010029#96 = .ok (.jalr 0 1 0) := by decide

theorem test_dir_branch :
    decodeDir specDefaults 0x0000000000000003_02010030#96 = .ok (.beq 1 2 3) ∧
    decodeDir specDefaults 0xFFFFFFFFFFFFFFFE_00010031#96 = .ok (.bne 1 0 (-2)) ∧
    decodeDir specDefaults 0x0000000000000002_0B0A0032#96 = .ok (.blt 10 11 2) ∧
    decodeDir specDefaults 0x0000000000000002_02010033#96 = .ok (.bge 1 2 2) ∧
    decodeDir specDefaults 0x0000000000000002_02010034#96 = .ok (.bltu 1 2 2) ∧
    decodeDir specDefaults 0x0000000000000002_00010035#96 = .ok (.bgeu 1 0 2) := by decide

theorem test_dir_load :
    decodeDir specDefaults 0x0000000000000001_00010840#96 = .ok (.lw 8 1 1) ∧
    decodeDir specDefaults 0x0000000000000002_00010441#96 = .ok (.lh 4 1 2) ∧
    decodeDir specDefaults 0x0000000000000004_00010642#96 = .ok (.lb 6 1 4) ∧
    decodeDir specDefaults 0x0000000000000020_00000343#96 = .ok (.lwu 3 0 32) ∧
    decodeDir specDefaults 0x0000000000000030_00000344#96 = .ok (.lhu 3 0 48) ∧
    decodeDir specDefaults 0x0000000000000004_00010745#96 = .ok (.lbu 7 1 4) := by decide

theorem test_dir_store :
    decodeDir specDefaults 0xFFFFFFFFFFFFFFF8_05020048#96 = .ok (.sw 5 2 (-8)) ∧
    decodeDir specDefaults 0x0000000000000000_02010049#96 = .ok (.sh 2 1 0) ∧
    decodeDir specDefaults 0x0000000000000004_0501004A#96 = .ok (.sb 5 1 4) := by decide

theorem test_dir_quantum :
    decodeDir specDefaults 0x0000000000000000_00000350#96 = .ok (.qinit 3) ∧
    decodeDir specDefaults 0x0000000000000003_00010051#96 = .ok (.qapply 0 1 3) ∧
    decodeDir specDefaults 0x0000000000000000_00010552#96 = .ok (.qmeasure 5 1) ∧
    decodeDir specDefaults 0x0000000000000000_02010353#96 = .ok (.qentangle 3 1 2) := by decide

/-- R113: a reserved id. R114: an index of 32; a field that the format does not set; an immediate of 2^31. -/
theorem test_dir_rejected :
    decodeDir specDefaults 0x0000000000000000_02010300#96 = .error (.reservedOpcode 0x00) ∧
    decodeDir specDefaults 0x0000000000000000_02010354#96 = .error (.reservedOpcode 0x54) ∧
    decodeDir specDefaults 0x0000000000000000_20010301#96 = .error .illFormed ∧
    decodeDir specDefaults 0x0000000000000001_02010301#96 = .error .illFormed ∧
    decodeDir specDefaults 0x0000000080000000_00000110#96 = .error .illFormed := by decide

/-- V-P-23: with 128 registers x127 is a register. -/
theorem test_dir_128_registers :
    decodeDir { specDefaults with nreg := 128 } 0x0000000000000000_02017F01#96 = .ok (.add 127 1 2) := by decide

/-! ### Lines (95_test_vectors.md V-D) -/

/-- V-D-3, V-D-6, V-D-17, V-D-19. -/
theorem test_line_accepted :
    decodeLine specDefaults "  add   x3 ,x1,  x2  ".toList = .instr (.add 3 1 2) ∧
    decodeLine specDefaults "sw x5, -8(x2)".toList = .instr (.sw 5 2 (-8)) ∧
    decodeLine specDefaults "add x01, x2, x3".toList = .instr (.add 1 2 3) ∧
    decodeLine specDefaults "addi x1, x0, -0".toList = .instr (.addi 1 0 0) := by decide

/-- V-D-20, V-D-27, V-D-36, V-D-39, V-D-40. -/
theorem test_line_unknown_and_register :
    decodeLine specDefaults "ADD x1, x2, x3".toList = .error (.unknownOpcode "ADD".toList) ∧
    decodeLine specDefaults "loop:".toList = .error (.unknownOpcode "loop:".toList) ∧
    decodeLine specDefaults "add x32, x0, x0".toList = .error (.registerOutOfRange "x32".toList) ∧
    decodeLine specDefaults "sw x1, 4(x40)".toList = .error (.registerOutOfRange "x40".toList) ∧
    decodeLine specDefaults "add x99, x1, y".toList = .error (.registerOutOfRange "x99".toList) := by decide

/-- V-D-29, V-D-32, V-D-34, V-D-41, V-D-42, V-D-43, V-D-44. -/
theorem test_line_parse_errors :
    decodeLine specDefaults "add x1, x2".toList = .error (.parseError (.operandCount 3)) ∧
    decodeLine specDefaults "addi x1, x0, 0x10".toList = .error (.parseError (.badImmediate "0x10".toList)) ∧
    decodeLine specDefaults "addi x1, x0, 2147483648".toList = .error (.parseError (.immediateOutOfRange 2147483648)) ∧
    decodeLine specDefaults "add x1,, x2, x3".toList = .error (.parseError .emptyField) ∧
    decodeLine specDefaults "add x1, x2, x3,".toList = .error (.parseError .emptyField) ∧
    decodeLine specDefaults "lw x1, (x2)".toList = .error (.parseError (.badMemoryOperand "(x2)".toList)) ∧
    decodeLine specDefaults "lw x1, 0( x2 )".toList = .error (.parseError (.operandCount 2)) := by decide

/-- V-D-47, V-D-48, V-D-49, V-D-50, V-D-51. -/
theorem test_line_comments :
    decodeLine specDefaults "add x1, x2, x3 # c".toList = .error (.parseError (.operandCount 3)) ∧
    decodeLine specDefaults "# comment".toList = .ignored ∧
    decodeLine specDefaults "   ".toList = .ignored ∧
    decodeLine specDefaults "  # indented".toList = .error (.parseError .indentedComment) ∧
    decodeLine specDefaults [] = .ignored := by decide

/-- R118: the printed text. -/
theorem test_print :
    printInstr (.sw 5 2 (-8)) = "sw x5, -8(x2)".toList ∧ printInstr (.qinit 31) = "qinit x31".toList ∧
    printInstr (.addi 1 0 2147483647) = "addi x1, x0, 2147483647".toList := by decide

/-! ### R-type (V-R) -/

/-- V-R-2, V-R-3. -/
theorem test_add :
    leads (.add 3 1 2) (plain [(1, 0xFFFFFFFFFFFFFFFF), (2, 1), (3, 9)]) (fun t => t.readReg 3 == 0 && t.pc == 1) = true ∧
    leads (.add 0 1 2) (plain [(1, 42), (2, 58)]) (fun t => t.regs == regsWith [(1, 42), (2, 58)] && t.pc == 1) = true := by
  decide

/-- V-R-5, V-R-7. -/
theorem test_sub :
    leads (.sub 3 1 2) (plain [(1, 5), (2, 7)]) (fun t => t.readReg 3 == 0xFFFFFFFFFFFFFFFE) = true ∧
    leads (.sub 3 1 2) (plain [(1, 0x8000000000000000), (2, 1)]) (fun t => t.readReg 3 == 0x7FFFFFFFFFFFFFFF) = true := by
  decide

/-- V-R-8, V-R-9, V-R-10. -/
theorem test_and_or_xor :
    leads (.and 3 1 2) (plain [(1, 0xF0F0), (2, 0xFF00)]) (fun t => t.readReg 3 == 0xF000) = true ∧
    leads (.or 3 1 2) (plain [(1, 0xF0F0), (2, 0xFF00)]) (fun t => t.readReg 3 == 0xFFF0) = true ∧
    leads (.xor 3 1 2) (plain [(1, 0xF0F0), (2, 0xFF00)]) (fun t => t.readReg 3 == 0x0FF0) = true := by decide

/-- V-R-13, V-R-16, V-R-18. -/
theorem test_shifts :
    leads (.sll 3 1 2) (plain [(1, 0xFF), (2, 60)]) (fun t => t.readReg 3 == 0xF000000000000000) = true ∧
    leads (.srl 3 1 2) (plain [(1, 0x8000000000000000), (2, 63)]) (fun t => t.readReg 3 == 1) = true ∧
    leads (.sra 3 1 2) (plain [(1, 0xFFFFFFFFFFFFFFF0), (2, 4)]) (fun t => t.readReg 3 == 0xFFFFFFFFFFFFFFFF) = true := by
  decide

/-- V-R-14, V-R-21: an oversize amount under the spec's default `refuse`. -/
theorem test_shifts_oversize_refused :
    faults (.sll 3 1 2) (plain [(1, 1), (2, 64)]) (.unmodelled .shiftAmount 0) = true ∧
    faults (.sra 3 1 2) (plain [(1, 1), (2, 0xFFFFFFFFFFFFFFFF)]) (.unmodelled .shiftAmount 0) = true := by decide

/-- V-P-1, V-P-2, V-P-3: `mask6`. -/
theorem test_shifts_mask6 :
    leads (.sll 3 1 2) (start { specDefaults with shiftOversize := .mask6 } 0 100 [(1, 1), (2, 64)] [])
      (fun t => t.readReg 3 == 1) = true ∧
    leads (.srl 3 1 2) (start { specDefaults with shiftOversize := .mask6 } 0 100 [(1, 0xFFFFFFFFFFFFFFFF), (2, 65)] [])
      (fun t => t.readReg 3 == 0x7FFFFFFFFFFFFFFF) = true ∧
    leads (.sra 3 1 2) (start { specDefaults with shiftOversize := .mask6 } 0 100 [(1, 0x8000000000000000), (2, 100)] [])
      (fun t => t.readReg 3 == 0xFFFFFFFFF8000000) = true := by decide

/-- V-R-22, V-R-26. -/
theorem test_set_if_less :
    leads (.slt 3 1 2) (plain [(1, 0xFFFFFFFFFFFFFFFF), (2, 1)]) (fun t => t.readReg 3 == 1) = true ∧
    leads (.sltu 3 1 2) (plain [(1, 0xFFFFFFFFFFFFFFFF), (2, 1), (3, 9)]) (fun t => t.readReg 3 == 0) = true := by decide

/-! ### I-type (V-I) -/

/-- V-I-3, V-I-5. -/
theorem test_addi :
    leads (.addi 1 2 1) (plain [(1, 9), (2, 0xFFFFFFFFFFFFFFFF)]) (fun t => t.readReg 1 == 0) = true ∧
    leads (.addi 1 0 (-2147483648)) (plain []) (fun t => t.readReg 1 == 0xFFFFFFFF80000000) = true := by decide

/-- V-I-7, V-I-11, V-I-12. -/
theorem test_shift_immediate :
    leads (.slli 1 2 63) (plain [(2, 3)]) (fun t => t.readReg 1 == 0x8000000000000000) = true ∧
    leads (.srli 1 2 63) (plain [(2, 0xFFFFFFFFFFFFFFFF)]) (fun t => t.readReg 1 == 1) = true ∧
    leads (.srai 1 2 4) (plain [(2, 0xFFFFFFFFFFFFFF00)]) (fun t => t.readReg 1 == 0xFFFFFFFFFFFFFFF0) = true := by decide

/-- V-I-8, V-I-9, V-P-5, V-P-12, V-P-13: amounts outside [0, 63]. -/
theorem test_shift_immediate_outside :
    faults (.slli 1 2 64) (plain [(2, 3)]) (.unmodelled .shiftAmount 0) = true ∧
    faults (.slli 1 2 (-1)) (plain [(2, 3)]) (.unmodelled .shiftAmount 0) = true ∧
    leads (.slli 1 2 (-1)) (start { specDefaults with shiftOversize := .mask6 } 0 100 [(2, 3)] [])
      (fun t => t.readReg 1 == 0x8000000000000000) = true ∧
    faults (.slli 1 2 (-1)) (start { specDefaults with shiftOversize := .goSaturate } 0 100 [(2, 3)] [])
      (.unmodelled .negativeShift 0) = true ∧
    leads (.slli 1 2 64) (start { specDefaults with shiftOversize := .goSaturate } 0 100 [(1, 9), (2, 3)] [])
      (fun t => t.readReg 1 == 0) = true := by decide

/-- V-I-17, V-I-19, V-I-20. -/
theorem test_logic_immediate :
    leads (.andi 1 2 (-256)) (plain [(2, 0x12345678)]) (fun t => t.readReg 1 == 0x12345600) = true ∧
    leads (.ori 1 2 (-2048)) (plain [(2, 7)]) (fun t => t.readReg 1 == 0xFFFFFFFFFFFFF807) = true ∧
    leads (.xori 1 0 (-1)) (plain []) (fun t => t.readReg 1 == 0xFFFFFFFFFFFFFFFF) = true := by decide

/-- V-I-22, V-I-25, V-I-26. -/
theorem test_set_if_less_immediate :
    leads (.slti 1 2 (-4)) (plain [(2, 0xFFFFFFFFFFFFFFFB)]) (fun t => t.readReg 1 == 1) = true ∧
    leads (.sltiu 1 2 (-1)) (plain [(2, 5)]) (fun t => t.readReg 1 == 1) = true ∧
    leads (.sltiu 1 2 (-1)) (plain [(1, 9), (2, 0xFFFFFFFFFFFFFFFF)]) (fun t => t.readReg 1 == 0) = true := by decide

/-! ### U-type (V-U) -/

/-- V-U-4, V-U-5, V-P-15. -/
theorem test_lui :
    leads (.lui 1 (-524288)) (plain []) (fun t => t.readReg 1 == 0xFFFFFFFF80000000) = true ∧
    faults (.lui 1 524288) (plain []) (.unmodelled .uImmRange 0) = true ∧
    leads (.lui 1 (-524289)) (start { specDefaults with uImmMode := .wide64 } 0 100 [] [])
      (fun t => t.readReg 1 == 0xFFFFFFFF7FFFF000) = true := by decide

/-- V-U-6, V-P-16. -/
theorem test_auipc :
    leads (.auipc 1 1) (start specDefaults 3 100 [] []) (fun t => t.readReg 1 == 0x1003 && t.pc == 4) = true ∧
    leads (.auipc 1 524288) (start { specDefaults with uImmMode := .wide64 } 2 100 [] [])
      (fun t => t.readReg 1 == 0x80000002) = true := by decide

/-! ### Jumps and branches (V-C) -/

/-- V-C-1, V-C-3 (the run ends at len), V-C-5, V-P-18. -/
theorem test_jal :
    leads (.jal 1 3) (start specDefaults 2 10 [] []) (fun t => t.readReg 1 == 3 && t.pc == 5 && t.status == .running) = true ∧
    leads (.jal 1 8) (start specDefaults 2 10 [] []) (fun t => t.readReg 1 == 3 && t.pc == 10 && t.status == .halted) = true ∧
    leads (.jal 1 (-3)) (start specDefaults 2 10 [] [])
      (fun t => t.readReg 1 == 0 && t.pc == 2 && failed t (.pcOutOfRange (-1))) = true ∧
    leads (.jal 1 (-3)) (start { specDefaults with jumpPastEnd := .halt } 2 10 [] [])
      (fun t => t.readReg 1 == 3 && t.pc == 2 && t.status == .halted) = true := by decide

/-- V-C-7, V-C-10, V-C-12, V-P-21, V-P-22. -/
theorem test_jalr :
    leads (.jalr 1 5 2) (start specDefaults 1 10 [(5, 7)] []) (fun t => t.readReg 1 == 2 && t.pc == 9) = true ∧
    leads (.jalr 1 5 (-1)) (start specDefaults 1 10 [] [])
      (fun t => t.readReg 1 == 0 && failed t (.pcOutOfRange 18446744073709551615)) = true ∧
    faults (.jalr 1 1 0) (start specDefaults 1 10 [(1, 4)] []) (.unmodelled .jalrLinkOrder 1) = true ∧
    leads (.jalr 1 1 0) (start { specDefaults with jalrLinkOrder := .oldRs1 } 1 10 [(1, 4)] [])
      (fun t => t.readReg 1 == 2 && t.pc == 4) = true ∧
    leads (.jalr 1 1 0) (start { specDefaults with jalrLinkOrder := .newRs1 } 1 10 [(1, 4)] [])
      (fun t => t.readReg 1 == 2 && t.pc == 2) = true := by decide

/-- V-C-13, V-C-14, V-C-15, V-C-16, V-C-18, V-C-19. -/
theorem test_beq_bne :
    leads (.beq 1 2 3) (start specDefaults 2 10 [(1, 5), (2, 5)] []) (fun t => t.pc == 5) = true ∧
    leads (.beq 1 2 3) (start specDefaults 2 10 [(1, 5), (2, 6)] []) (fun t => t.pc == 3) = true ∧
    leads (.beq 1 2 (-5)) (start specDefaults 2 10 [(1, 5), (2, 5)] []) (fun t => failed t (.pcOutOfRange (-3))) = true ∧
    leads (.beq 1 2 (-5)) (start specDefaults 2 10 [(1, 5), (2, 6)] []) (fun t => t.pc == 3) = true ∧
    leads (.bne 1 2 (-2)) (start specDefaults 4 10 [(1, 1)] []) (fun t => t.pc == 2) = true ∧
    leads (.bne 1 1 100) (start specDefaults 4 10 [(1, 1)] []) (fun t => t.pc == 5) = true := by decide

/-- V-C-20, V-C-22, V-C-23, V-C-24. -/
theorem test_blt_bge :
    leads (.blt 1 2 2) (start specDefaults 0 10 [(1, 0xFFFFFFFFFFFFFFFF)] []) (fun t => t.pc == 2) = true ∧
    leads (.blt 1 1 2) (start specDefaults 0 10 [(1, 3)] []) (fun t => t.pc == 1) = true ∧
    leads (.bge 1 2 2) (start specDefaults 0 10 [(1, 0xFFFFFFFFFFFFFFFF)] []) (fun t => t.pc == 1) = true ∧
    leads (.bge 1 2 2) (start specDefaults 0 10 [(1, 3), (2, 3)] []) (fun t => t.pc == 2) = true := by decide

/-- V-C-25, V-C-26, V-C-27, V-C-28. -/
theorem test_bltu_bgeu :
    leads (.bltu 1 2 2) (start specDefaults 0 10 [(1, 0xFFFFFFFFFFFFFFFF)] []) (fun t => t.pc == 1) = true ∧
    leads (.bltu 1 2 2) (start specDefaults 0 10 [(2, 0xFFFFFFFFFFFFFFFF)] []) (fun t => t.pc == 2) = true ∧
    leads (.bgeu 1 2 2) (start specDefaults 0 10 [(1, 0xFFFFFFFFFFFFFFFF)] []) (fun t => t.pc == 2) = true ∧
    leads (.bgeu 1 0 2) (start specDefaults 0 10 [] []) (fun t => t.pc == 2) = true := by decide

/-! ### Loads and stores (V-LS) -/

/-- The bytes of the load rows that are not 0. -/
def loadBytes : List Host.Cell :=
  [(16, 0x78), (17, 0x56), (18, 0x34), (19, 0x12), (35, 0x80), (40, 0xFF), (41, 0xFF), (42, 0xFF), (43, 0xFF), (49, 0x80),
   (50, 0xFF), (51, 0x7F), (56, 0x80), (57, 0x7F)]

/-- The load rows' state. -/
def loadState (l : List (Nat × Word)) : State := start specDefaults 0 100 l loadBytes

/-- V-LS-4, V-LS-5, V-LS-8, V-LS-19, V-LS-25. -/
theorem test_lw_lwu :
    leads (.lw 3 0 32) (loadState []) (fun t => t.readReg 3 == 0xFFFFFFFF80000000) = true ∧
    leads (.lwu 3 0 32) (loadState []) (fun t => t.readReg 3 == 0x80000000) = true ∧
    leads (.lw 3 0 17) (loadState []) (fun t => t.readReg 3 == 0x00123456) = true ∧
    leads (.lw 3 0 1048573) (loadState []) (fun t => t.readReg 3 == 0 && failed t (.memoryOutOfBounds 1048573 4)) = true ∧
    leads (.lw 1 1 0) (loadState [(1, 16)]) (fun t => t.readReg 1 == 0x12345678) = true := by decide

/-- V-LS-9, V-LS-11, V-LS-13. -/
theorem test_lh_lhu :
    leads (.lh 3 0 48) (loadState []) (fun t => t.readReg 3 == 0xFFFFFFFFFFFF8000) = true ∧
    leads (.lhu 3 0 48) (loadState []) (fun t => t.readReg 3 == 0x8000) = true ∧
    leads (.lh 3 1 1) (loadState [(1, 16)]) (fun t => t.readReg 3 == 0x3456) = true := by decide

/-- V-LS-15, V-LS-17, V-LS-20, V-LS-21, V-LS-23. -/
theorem test_lb_lbu :
    leads (.lbu 3 0 56) (loadState []) (fun t => t.readReg 3 == 0x80) = true ∧
    leads (.lb 3 1 (-1)) (loadState [(1, 57)]) (fun t => t.readReg 3 == 0xFFFFFFFFFFFFFF80) = true ∧
    leads (.lbu 3 0 1048575) (loadState [(3, 9)]) (fun t => t.readReg 3 == 0) = true ∧
    leads (.lbu 3 1 0) (loadState [(1, 0x100000)]) (fun t => failed t (.memoryOutOfBounds 1048576 1)) = true ∧
    leads (.lb 3 1 1) (loadState [(1, 0xFFFFFFFFFFFFFFFF)])
      (fun t => failed t (.memoryOutOfBounds 18446744073709551616 1)) = true := by decide

/-- V-LS-26, V-LS-30, V-LS-31. -/
theorem test_sw :
    leads (.sw 2 1 0) (start specDefaults 0 100 [(1, 8), (2, 0x1122334455667788)] [(8, 0xAA), (12, 0xAA)])
      (fun t => t.mem == [(8, 0x88), (9, 0x77), (10, 0x66), (11, 0x55), (12, 0xAA)] && t.pc == 1) = true ∧
    leads (.sw 2 0 1048573) (start specDefaults 0 100 [(2, 0xDEADBEEF)] [(1048575, 0xAA)])
      (fun t => t.mem == [(1048575, 0xAA)] && failed t (.memoryOutOfBounds 1048573 4)) = true ∧
    leads (.sw 2 0 1048572) (start specDefaults 0 100 [(2, 0xDEADBEEF)] [(1048575, 0xAA)])
      (fun t => t.mem == [(1048572, 0xEF), (1048573, 0xBE), (1048574, 0xAD), (1048575, 0xDE)]) = true := by decide

/-- V-LS-27, V-LS-28, V-LS-32. -/
theorem test_sh_sb :
    leads (.sh 2 1 0) (start specDefaults 0 100 [(1, 3), (2, 0xABCD)] [])
      (fun t => t.mem == [(3, 0xCD), (4, 0xAB)]) = true ∧
    leads (.sb 2 1 5) (start specDefaults 0 100 [(2, 0x180)] [(5, 0xAA)]) (fun t => t.mem == [(5, 0x80)]) = true ∧
    leads (.sh 2 1 (-1)) (start specDefaults 0 100 [(2, 1)] [(0, 0xAA)])
      (fun t => t.mem == [(0, 0xAA)] && failed t (.memoryOutOfBounds (-1) 2)) = true := by decide

/-! ### Quantum (V-Q) -/

/-- A state at pc 4 with x5 = 0x77 and the port's answers fixed. -/
def portState (answers : List PortAnswer) : State :=
  { start specDefaults 4 100 [(5, 0x77)] [] with portScript := answers }

/-- V-Q-1, V-Q-11. -/
theorem test_qinit :
    leads (.qinit 3) (portState [.done])
      (fun t => t.regs == regsWith [(5, 0x77)] && t.pc == 5 && t.requests == [⟨.qinit, 3, 0, 0, 0⟩]) = true ∧
    faults (.qinit 3) (portState [.bit true]) (.unmodelled .portResponse 4) = true := by decide

/-- V-Q-2, V-Q-3, V-Q-10. -/
theorem test_qapply_qentangle :
    leads (.qapply 0 1 3) (portState [.done]) (fun t => t.pc == 5 && t.requests == [⟨.qapply, 0, 1, 0, 3⟩]) = true ∧
    leads (.qapply 2 1 6) (portState [.fail .unsupportedControlCount])
      (fun t => t.pc == 4 && failed t .unsupportedControlCount) = true ∧
    leads (.qentangle 3 1 2) (portState [.done])
      (fun t => t.pc == 5 && t.requests == [⟨.qentangle, 3, 1, 2, 0⟩]) = true := by decide

/-- V-Q-5, V-Q-6, V-Q-7, V-Q-8, V-Q-9. -/
theorem test_qmeasure :
    leads (.qmeasure 5 1) (portState [.bit true]) (fun t => t.readReg 5 == 1 && t.pc == 5) = true ∧
    leads (.qmeasure 5 1) (portState [.bit false]) (fun t => t.readReg 5 == 0) = true ∧
    leads (.qmeasure 5 1) (portState [.done]) (fun t => t.readReg 5 == 0x77 && t.pc == 5) = true ∧
    leads (.qmeasure 0 1) (portState [.bit true]) (fun t => t.regs == regsWith [(5, 0x77)]) = true ∧
    leads (.qmeasure 5 9) (portState [.fail (.uninitializedQuantumRegister 9)])
      (fun t => t.readReg 5 == 0x77 && failed t (.uninitializedQuantumRegister 9)) = true := by decide

/-- The codes of R320's table, row by row. -/
theorem test_error_codes :
    [errorCode (.decode (.parseError .emptyField)), errorCode (.decode (.registerOutOfRange [])),
      errorCode (.decode (.unknownOpcode [])), errorCode (.memoryOutOfBounds 0 4),
      errorCode (.uninitializedQuantumRegister 0), errorCode .unsupportedControlCount, errorCode (.pcOutOfRange 0),
      errorCode .quantumPortFailure, faultCode (.unmodelled .shiftAmount 0)] = [1, 2, 3, 4, 5, 6, 7, 8, 9] := by decide

/-! ### Step and host operations (V-H) -/

/-- V-D-4's record runs as the first instruction after reset. -/
theorem test_first_instruction :
    steps (State.reset.withFetchWord 96 0x000000000000002A_00000110)
      (fun t => t.readReg 1 == 42 && t.pc == 1 && t.status == .halted) = true := by decide

/-- The machine after construction with one host operation waiting. -/
def asked (op : HostOp) : State := { State.construct specDefaults with inputs := [op] }

/-- V-H-1. -/
theorem test_run_without_program : refuses (asked .run) .noProgram = true := by decide

/-- V-H-4. -/
theorem test_step_with_nothing_loaded :
    steps (asked (.step 0)) (fun t => t.reply == some (.error ⟨.pcOutOfRange 0, none, none, []⟩) && t.status == .idle) = true := by
  decide

/-- V-H-5. -/
theorem test_execute_line :
    steps (asked (.execute "addi x1, x0, 5".toList))
      (fun t => t.readReg 1 == 5 && t.program == [] && !t.progValid && t.status == .idle && t.pc == 0) = true := by decide

/-- V-H-6. -/
theorem test_execute_bad_line :
    steps (asked (.execute "add x1, x2".toList)) (fun t =>
      t.reply == some (.error ⟨.decode (.parseError (.operandCount 3)), none, none, "add x1, x2".toList⟩)) = true := by decide

/-- L1-7: the load is atomic. -/
theorem test_load_atomic :
    steps (asked (.loadProgram "addi x1, x0, 1\naddi x2, x0, 0x10\naddi x3, x0, 3".toList)) (fun t =>
      t.program == [] && t.progValid && t.reply == some (.error ⟨.decode (.parseError (.badImmediate "0x10".toList)), none,
        some 2, "addi x2, x0, 0x10".toList⟩)) = true := by decide

/-- A load that succeeds: P6's first two lines, a comment and an empty line left out. -/
theorem test_load :
    steps (asked (.loadProgram "# P6\naddi x1, x0, 3\n\nbeq x0, x0, 0".toList)) (fun t =>
      t.program.map Record.dir == [0x0000000000000003_00000110#96, 0x0000000000000000_00000030#96] && t.progValid &&
      t.reply == some (.loaded 2)) = true := by decide

/-! ### Witnesses: states and operands that meet the hypotheses of the statements of Certificates/Slice0/Obligations.lean -/

/-- The spec's defaults but for JUMP_PAST_END. -/
def haltParams : Params := { specDefaults with jumpPastEnd := .halt }

/-- x1 = 5, x2 = 5, x3 = 64, pc 2 of 10. -/
def mid (p : Params) : State := start p 2 10 [(1, 5), (2, 5), (3, 64), (4, 63)] []

/-- The run-only hypotheses that most statements about one instruction share, for x0 and x31. -/
theorem test_witness_running :
    (mid specDefaults).served = .run ∧ (0 : RegIdx).toNat < (mid specDefaults).regs.length ∧
      (31 : RegIdx).toNat < (mid specDefaults).regs.length := by decide

theorem test_witness_DirOfInstrDecodesBack :
    specDefaults.Valid ∧ WellFormed specDefaults (.sw 31 0 2147483647) = true ∧
      WellFormed specDefaults (.qapply 0 31 (-2147483648)) = true := by decide

theorem test_witness_DecodedDirIsExact :
    decodeDir specDefaults 0xFFFFFFFF80000000_1F1F0030#96 = .ok (.beq 31 31 (-2147483648)) := by decide

theorem test_witness_ReservedOpcodesFail :
    (mid specDefaults).status = .running ∧ (mid specDefaults).served = .run ∧
      (mid specDefaults).program[(mid specDefaults).pc.toNat]? = some ⟨0, []⟩ ∧
      ReservedOpc ((0 : Dir).extractLsb' 0 8).toNat := by decide

/-- The first and the last id of every reserved range (R113), and ids of R112 beside them. -/
theorem test_reserved_ranges :
    (∀ c ∈ [0x00, 0x0B, 0x0F, 0x19, 0x1F, 0x22, 0x27, 0x2A, 0x2F, 0x36, 0x3F, 0x46, 0x47, 0x4B, 0x4F, 0x54, 0xFF],
      ReservedOpc c) ∧
      ∀ c ∈ [0x01, 0x0A, 0x10, 0x18, 0x20, 0x21, 0x28, 0x29, 0x30, 0x35, 0x40, 0x45, 0x48, 0x4A, 0x50, 0x53],
        ¬ReservedOpc c := by decide

/-- The greatest register index and the least immediate are well formed. -/
theorem test_well_formed_dir : WellFormedDir specDefaults 0xFFFFFFFF80000000_1F1F0030#96 :=
  ⟨by decide, by decide, by decide, by decide, by decide, by decide, by decide, by decide, by decide, by decide, by decide,
    by decide⟩

/-- An index of 32, an immediate of 2^31, and an immediate in a format that sets none: ill formed. -/
theorem test_witness_IllFormedDirRefused :
    specDefaults.Valid ∧ ¬ReservedOpc (((0x20010301#96 : Dir)).extractLsb' 0 8).toNat ∧
      ¬WellFormedDir specDefaults 0x20010301#96 ∧ ¬WellFormedDir specDefaults 0x0000000080000000_00000110#96 ∧
      ¬WellFormedDir specDefaults 0x0000000000000001_02010301#96 :=
  ⟨by decide, by decide, fun h => absurd h.2.2.2.1 (by decide), fun h => absurd h.2.2.2.2.2.1 (by decide),
    fun h => absurd (h.2.2.2.2.2.2.1 (.inl (by decide))) (by decide)⟩

theorem test_witness_IllFormedDirRefused_run :
    (start specDefaults 0 0 [] []).status = .running ∧
      ({ start specDefaults 0 0 [] [] with program := [⟨0x20010301#96, []⟩] } : State).program[0]? =
        some ⟨0x20010301#96, []⟩ := by decide

theorem test_witness_PrintedTextDecodesBack :
    decodeLine specDefaults (printInstr (.lw 31 0 (-2147483648))) = .instr (.lw 31 0 (-2147483648)) ∧
      decodeLine specDefaults (printInstr (.qentangle 10 9 0)) = .instr (.qentangle 10 9 0) := by decide

theorem test_witness_DecodedLineIsWellFormed :
    specDefaults.Valid ∧ decodeLine specDefaults "qinit x31".toList = .instr (.qinit 31) := by decide

theorem test_witness_BlankAndCommentLines :
    ([] : List Char).all isBlank = true ∧ " \t\r".toList.all isBlank = true ∧ " \t\r".toList ≠ [] := by decide

/-- One token too few for a format of three, one too many for two, none for one. -/
theorem test_witness_OperandCountChecked :
    tokens "add x1, x2".toList = "add".toList :: ["x1".toList, "x2".toList] ∧
      tokens "lw x1, x2, x3".toList = "lw".toList :: ["x1".toList, "x2".toList, "x3".toList] ∧
      tokens "qinit".toList = "qinit".toList :: [] ∧ commasOk true "add x1, x2".toList = true ∧
      commasOk true "lw x1, x2, x3".toList = true ∧ commasOk true "qinit".toList = true ∧
      "qinit".toList.head? ≠ some '#' ∧ ("qinit".toList.dropWhile isBlank).head? ≠ some '#' := by decide

/-- Two commas with a tab between, a comma first, a comma last, and none of these. -/
theorem test_witness_EmptyCommaFieldFails :
    "add x1,\t,x2".toList.head? ≠ some '#' ∧ ("add x1,\t,x2".toList.dropWhile isBlank).head? ≠ some '#' ∧
      "add x1,\t,x2".toList.all isBlank = false ∧
      decodeLine specDefaults "add x1,\t,x2".toList = .error (.parseError .emptyField) ∧
      decodeLine specDefaults " ,add".toList = .error (.parseError .emptyField) ∧
      decodeLine specDefaults "qinit x1 , ".toList = .error (.parseError .emptyField) ∧
      decodeLine specDefaults "qinit ,x1".toList = .instr (.qinit 1) := by decide

theorem test_witness_OtherMnemonicsFail :
    tokens " ADD x1, x2".toList = "ADD".toList :: ["x1".toList, "x2".toList] ∧ commasOk true " ADD x1, x2".toList = true ∧
      " ADD x1, x2".toList.head? ≠ some '#' ∧ (" ADD x1, x2".toList.dropWhile isBlank).head? ≠ some '#' ∧
      decodeLine specDefaults " ADD x1, x2".toList = .error (.unknownOpcode "ADD".toList) := by decide

/-- The last register and the first that is none, with a leading zero. -/
theorem test_witness_RegisterTokens :
    31 < specDefaults.nreg ∧ specDefaults.nreg ≤ 32 ∧ parseRegister specDefaults "x031".toList = .ok 31 ∧
      parseRegister specDefaults "x032".toList = .error (.registerOutOfRange "x032".toList) := by decide

theorem test_witness_RegisterTokens_other (ds : List Char) (h : "x1a".toList = 'x' :: ds) :
    ds = [] ∨ ∃ c ∈ ds, c.toNat < 48 ∨ 57 < c.toNat := by
  have h' : ds = ['1', 'a'] := by
    have : "x1a".toList = ['x', '1', 'a'] := by decide
    rw [this] at h
    injection h with _ h
    exact h.symm
  subst h'
  exact .inr ⟨'a', by decide, by decide⟩

theorem test_witness_ImmediateTokens :
    parseImmediate specDefaults "02147483647".toList = .ok 2147483647 ∧
      parseImmediate specDefaults "-2147483648".toList = .ok (-2147483648) ∧
      parseImmediate specDefaults "-2147483649".toList = .error (.parseError (.immediateOutOfRange (-2147483649))) ∧
      "+5".toList.head? ≠ some '-' ∧ '+' ∈ "+5".toList ∧ '+'.toNat < 48 := by decide

/-- No line of the text fails. -/
def noError (p : Params) (text : List Char) : Bool :=
  (splitLines text).all fun l =>
    match decodeLine p l with
    | .error _ => false
    | .ignored => true
    | .instr _ => true

theorem noError_spec {p : Params} {text : List Char} (h : noError p text = true) :
    ∀ l ∈ splitLines text, ∀ e, decodeLine p l ≠ .error e := by
  intro l hl e he
  have := List.all_eq_true.1 h l hl
  simp [he] at this

theorem test_witness_LoadIsAtomic :
    (asked (.loadProgram "qinit x1".toList)).status ≠ .running ∧
      (asked (.loadProgram "qinit x1".toList)).inputs = .loadProgram "qinit x1".toList :: [] ∧
      ∀ l ∈ splitLines "# c\nqinit x1".toList, ∀ e, decodeLine specDefaults l ≠ .error e :=
  ⟨by decide, rfl, noError_spec (by decide)⟩

/-- The first failing line is the first, and the second, of two. -/
theorem test_witness_LoadIsAtomic_failing :
    (splitLines "nop\nqinit x1".toList)[0]? = some "nop".toList ∧
      (splitLines "qinit x1\nnop".toList)[1]? = some "nop".toList ∧
      decodeLine specDefaults "nop".toList = .error (.unknownOpcode "nop".toList) ∧
      decodeLine specDefaults "qinit x1".toList = .instr (.qinit 1) := by decide

theorem test_witness_RegisterReadWrite :
    (31 : RegIdx) ≠ 0 ∧ (31 : RegIdx).toNat < (mid specDefaults).regs.length ∧ (30 : RegIdx) ≠ 31 := by decide

/-- Bytes 1 and 2 at 5 and 6 read as 0x0201. -/
theorem test_read_little_endian : Memory.readLE [(5, 1), (6, 2)] 5 2 = 0x0201 := by decide

theorem test_witness_LoadReadsStoredBytes :
    Memory.wf [(0, 1), (7, 2)] = true ∧ (8 : Nat) ≤ 8 ∧ 0 + 8 ≤ 8 ∧ 8 + 0 ≤ 8 ∧
      ((Memory.writeLE [(0, 1), (7, 2)] 4 4 0x8877665544332211).readLE (4 + 1) 2 = 0x3322) := by decide

theorem test_witness_StoreLeavesOtherBytes :
    Memory.wf [(3, 1), (8, 2)] = true ∧ (3 + 1 ≤ 4 ∨ 4 + 4 ≤ 3) ∧ (8 + 1 ≤ 4 ∨ 4 + 4 ≤ 8) ∧
      (Memory.writeLE [(3, 1), (8, 2)] 4 4 0xFFFFFFFF).read 3 = 1 ∧
      (Memory.writeLE [(3, 1), (8, 2)] 4 4 0xFFFFFFFF).read 8 = 2 := by decide

theorem test_witness_AddSubAndOrXor :
    (mid specDefaults).served = .run ∧ (31 : RegIdx).toNat < (mid specDefaults).regs.length := by decide

/-- Amounts 63 and 64 under each of the spec's settings. -/
theorem test_witness_RegisterShifts :
    (mid specDefaults).served = .run ∧ (0 : RegIdx).toNat < (mid specDefaults).regs.length ∧
      ((mid specDefaults).readReg 4).toNat = 63 ∧ ((mid specDefaults).readReg 3).toNat = 64 ∧
      (mid specDefaults).cfg.shiftOversize = .refuse ∧
      (mid { specDefaults with shiftOversize := .mask6 }).cfg.shiftOversize = .mask6 ∧
      (mid { specDefaults with shiftOversize := .goSaturate }).cfg.shiftOversize = .goSaturate := by decide

theorem test_witness_SetIfLess :
    (mid specDefaults).served = .run ∧ (3 : RegIdx).toNat < (mid specDefaults).regs.length := by decide

theorem test_witness_AddAndOrXorImmediate :
    (mid specDefaults).served = .run ∧ (1 : RegIdx).toNat < (mid specDefaults).regs.length := by decide

theorem test_witness_SetIfLessImmediate :
    (mid specDefaults).served = .run ∧ (1 : RegIdx).toNat < (mid specDefaults).regs.length ∧
      -(2 ^ 63) ≤ (-9223372036854775808 : Int) ∧ (9223372036854775807 : Int) ≤ 2 ^ 63 - 1 := by decide

/-- Amounts -1, 0, 63 and 64 fall under one clause each. -/
theorem test_witness_ImmediateShifts :
    (mid specDefaults).served = .run ∧ (1 : RegIdx).toNat < (mid specDefaults).regs.length ∧
      ((0 : Int) ≤ 63 ∧ (63 : Int) ≤ 63) ∧ ((64 : Int) < 0 ∨ (63 : Int) < 64) ∧ ((-1 : Int) < 0 ∨ (63 : Int) < -1) := by
  decide

theorem test_witness_OversizeShiftIsFree :
    (mid freeParams).served = .run ∧ (1 : RegIdx).toNat < (mid freeParams).regs.length ∧
      (mid freeParams).cfg.shiftOversize = .anyValue ∧ 63 < ((mid freeParams).readReg 3).toNat ∧
      ((-1 : Int) < 0 ∨ (63 : Int) < -1) := by decide

/-- The ends of the 20-bit range, and the first values outside. -/
theorem test_witness_UpperImmediate :
    (mid specDefaults).served = .run ∧ (1 : RegIdx).toNat < (mid specDefaults).regs.length ∧
      (-(2 ^ 19) ≤ (-524288 : Int) ∧ (524287 : Int) ≤ 2 ^ 19 - 1) ∧ (2 ^ 19 - 1 < (524288 : Int)) ∧
      ((-524289 : Int) < -(2 ^ 19)) ∧ (mid specDefaults).cfg.uImmMode = .refuseOutside20Bit ∧
      (mid { specDefaults with uImmMode := .wide64 }).cfg.uImmMode = .wide64 := by decide

theorem test_witness_FreeUpperImmediate :
    (mid freeParams).served = .run ∧ (1 : RegIdx).toNat < (mid freeParams).regs.length ∧
      ((524288 : Int) < -(2 ^ 19) ∨ 2 ^ 19 - 1 < (524288 : Int)) ∧ (mid freeParams).cfg.uImmMode = .anyValue := by decide

/-- From pc 2 of 10, the targets 0 and 10 and the targets -1 and 11. -/
theorem test_witness_JumpAndLink :
    (mid specDefaults).served = .run ∧ (0 : RegIdx).toNat < (mid specDefaults).regs.length ∧
      (0 ≤ ((mid specDefaults).pc.toNat : Int) + -2 ∧ ((mid specDefaults).pc.toNat : Int) + 8 ≤ (mid specDefaults).len) ∧
      ((mid specDefaults).pc.toNat : Int) + -3 < 0 ∧ ((mid specDefaults).len : Int) < (mid specDefaults).pc.toNat + 9 ∧
      (mid specDefaults).cfg.jumpPastEnd = .fault := by decide

/-- x1 = 5: with offset 5 the target is len, with -6 it is 2^64 - 1; rd = rs1 under each of the spec's settings. -/
theorem test_witness_JumpAndLinkRegister :
    (mid specDefaults).served = .run ∧ (1 : RegIdx).toNat < (mid specDefaults).regs.length ∧ (31 : RegIdx) ≠ 1 ∧
      (u64 (((mid specDefaults).readReg 1).toNat + 5)).toNat = (mid specDefaults).len ∧
      (u64 (((mid specDefaults).readReg 1).toNat + -6)).toNat = 18446744073709551615 ∧
      (mid specDefaults).cfg.jalrLinkOrder = .refuse ∧
      (mid { specDefaults with jalrLinkOrder := .oldRs1 }).cfg.jalrLinkOrder = .oldRs1 ∧
      (mid { specDefaults with jalrLinkOrder := .newRs1 }).cfg.jalrLinkOrder = .newRs1 := by decide

theorem test_witness_JalrEitherReading :
    (mid freeParams).served = .run ∧ (1 : RegIdx).toNat < (mid freeParams).regs.length ∧ (1 : RegIdx) ≠ 0 ∧
      (mid freeParams).cfg.jalrLinkOrder = .either := by decide

/-- x1 = x2 and x1 ≠ x3; x1 below x3 and x3 not below x1, signed and unsigned; targets as for `JumpAndLink`. -/
theorem test_witness_Branches :
    (mid specDefaults).served = .run ∧ (mid specDefaults).readReg 1 = (mid specDefaults).readReg 2 ∧
      (mid specDefaults).readReg 1 ≠ (mid specDefaults).readReg 3 ∧
      s64 ((mid specDefaults).readReg 1) < s64 ((mid specDefaults).readReg 3) ∧
      ((mid specDefaults).readReg 1).toNat < ((mid specDefaults).readReg 3).toNat ∧
      ¬s64 ((mid specDefaults).readReg 3) < s64 ((mid specDefaults).readReg 1) := by decide

/-- The same under JUMP_PAST_END = halt. -/
theorem test_witness_halting :
    (mid haltParams).served = .run ∧ (mid haltParams).cfg.jumpPastEnd = .halt ∧
      ((mid haltParams).pc.toNat : Int) + -3 < 0 ∧ ((mid haltParams).len : Int) < (mid haltParams).pc.toNat + 9 ∧
      (mid haltParams).len < (u64 (((mid haltParams).readReg 1).toNat + 6)).toNat := by decide

theorem test_witness_CommittedPcInProgram :
    (mid specDefaults).served = .run ∧ (mid specDefaults).pc.toNat < (mid specDefaults).program.length ∧
      leads (.jal 0 8) (mid specDefaults) (fun t => t.pc == 10) = true := by decide

/-- The first and the last word in bounds, and the first addresses out of bounds on either side. -/
theorem test_witness_Loads :
    (mid specDefaults).served = .run ∧ (0 : RegIdx).toNat < (mid specDefaults).regs.length ∧
      (0 ≤ (((mid specDefaults).readReg 1).toNat : Int) + -5 ∧
        (((mid specDefaults).readReg 0).toNat : Int) + 1048572 + 4 ≤ (mid specDefaults).cfg.memCapacity) ∧
      (((mid specDefaults).readReg 1).toNat : Int) + -6 < 0 ∧
      (((mid specDefaults).readReg 0).toNat : Int) + 1048573 + 4 > (mid specDefaults).cfg.memCapacity := by decide

theorem test_witness_Stores :
    (loadState []).served = .run ∧ (loadState []).mem.wf = true ∧
      (((loadState []).readReg 0).toNat : Int) + 1048574 + 2 ≤ (loadState []).cfg.memCapacity ∧
      (((loadState []).readReg 0).toNat : Int) + 1048575 + 2 > (loadState []).cfg.memCapacity := by decide

/-- The three failures of R301. -/
theorem test_witness_PassesOnFailures :
    (portState [.fail (.uninitializedQuantumRegister 9)]).portScript = .fail (.uninitializedQuantumRegister 9) :: [] ∧
      (portState [.fail .unsupportedControlCount]).portScript = .fail .unsupportedControlCount :: [] ∧
      (portState [.fail .quantumPortFailure]).portScript = .fail .quantumPortFailure :: [] := by decide

theorem test_witness_QuantumInitApplyEntangle :
    (portState [.done]).served = .run ∧ (portState [.done]).portScript = .done :: [] ∧
      (portState [.fail .quantumPortFailure]).portScript = .fail .quantumPortFailure :: [] ∧
      (portState [.bit false]).portScript = .bit false :: [] ∧ (portState [.other 3]).portScript = .other 3 :: [] := by decide

theorem test_witness_QuantumMeasure :
    (portState [.bit true]).served = .run ∧ (0 : RegIdx).toNat < (portState [.bit true]).regs.length ∧
      (portState [.bit true]).portScript = .bit true :: [] ∧ (portState [.done, .done]).portScript = .done :: [.done] ∧
      (portState [.fail (.uninitializedQuantumRegister 1)]).portScript = .fail (.uninitializedQuantumRegister 1) :: [] ∧
      faults (.qmeasure 5 1) (portState [.other 3]) (.unmodelled .portResponse 4) = true := by decide

theorem test_witness_QuantumAnswersAreFree :
    (portState []).served = .run ∧ (5 : RegIdx).toNat < (portState []).regs.length ∧ (portState []).portScript = [] := by
  decide

theorem test_witness_QuantumReadsNoRegister :
    (∃ rd, Instr.qinit 3 = .qinit rd) ∧ leads (.qinit 3) (portState [.done]) (fun t => t.pc == 5) = true ∧
      leads (.qmeasure 5 1) (portState [.bit true]) (fun t => t.readReg 5 == 1) = true ∧
      faults (.qinit 3) (portState [.other 0]) (.unmodelled .portResponse 4) = true :=
  ⟨⟨3, rfl⟩, by decide, by decide, by decide⟩

theorem test_witness_NoInstructionChangesProgram :
    ∃ t, exec (.sw 1 0 0) (mid specDefaults) = .next t ∧ t.mem.read 0 = 5 := ⟨_, rfl, by decide⟩

/-- A register write and a memory write. -/
theorem test_witness_OneRegisterOrOneRange :
    (mid specDefaults).mem.wf = true ∧ leads (.add 31 1 2) (mid specDefaults) (fun t => t.readReg 31 == 10) = true ∧
      leads (.sw 1 0 0) (mid specDefaults) (fun t => t.mem.read 0 == 5) = true ∧
      destination (.add 31 1 2) = some 31 ∧ storeOperand (.add 31 1 2) = none ∧
      storeOperand (.sw 1 0 0) = some (0, 0, 4) ∧ destination (.sw 1 0 0) = none := by decide

theorem test_witness_ErrorsWriteNothing :
    (mid specDefaults).served = .run ∧ (mid specDefaults).status = .running ∧
      leads (.lw 1 0 (-1)) (mid specDefaults) (fun t => failed t (.memoryOutOfBounds (-1) 4)) = true := by decide

theorem test_witness_EveryInstructionRuns :
    RunsEveryForm freeParams ∧ State.PortOnContract (portState [.done, .fail .quantumPortFailure]) :=
  ⟨⟨.inr rfl, by decide, by decide⟩, by
    intro a h
    have h' : a = .done ∨ a = .fail .quantumPortFailure := by simpa [portState] using h
    rcases h' with rfl | rfl
    · exact .inl rfl
    · exact .inr ⟨_, rfl⟩⟩

/-- The spec's own settings that leave no form without meaning. -/
theorem test_witness_EveryInstructionRuns_spec_settings :
    RunsEveryForm { specDefaults with shiftOversize := .mask6, uImmMode := .wide64, jalrLinkOrder := .oldRs1 } :=
  ⟨.inl rfl, by decide, by decide⟩

/-- A run at the record of `addi x1, x0, 42`. -/
def fetching : State := State.reset.withFetchWord 96 0x000000000000002A_00000110

theorem test_witness_StepRunsFetchedInstruction :
    fetching.status = .running ∧ fetching.served = .run ∧
      fetching.program[fetching.pc.toNat]? = some ⟨0x000000000000002A_00000110#96, []⟩ ∧
      decodeDir fetching.cfg 0x000000000000002A_00000110#96 = .ok (.addi 1 0 42) := by decide

theorem test_witness_RunEndsPastLastInstruction :
    (start specDefaults 10 10 [] []).status = .running ∧
      (start specDefaults 10 10 [] []).program.length ≤ (start specDefaults 10 10 [] []).pc.toNat := by decide

/-- Without a program, with an empty one, and with one of ten records. -/
theorem test_witness_RunStartsAtIndexZero :
    (asked .run).status ≠ .running ∧ (asked .run).inputs = .run :: [] ∧ (asked .run).progValid = false ∧
      ({ asked .run with progValid := true } : State).program = [] ∧
      ({ mid specDefaults with status := .halted, inputs := [.run] } : State).program ≠ [] := by decide

theorem test_witness_ReconstructBuildsFreshMachine :
    (asked .reconstruct).status ≠ .running ∧ (asked .reconstruct).inputs = .reconstruct :: [] ∧ (31 : RegIdx) ≠ 0 ∧
      (31 : RegIdx).toNat < (asked .reconstruct).cfg.nreg ∧ 1048575 < (asked .reconstruct).cfg.memCapacity := by decide

/-- The step interface at len, and at the one instruction. -/
theorem test_witness_StepInterfaceMatchesRun :
    ({ fetching with status := .idle, inputs := [.step 1] } : State).program.length ≤ (1 : Word).toNat ∧
      ({ fetching with status := .idle, inputs := [.step 0] } : State).program[(0 : Word).toNat]? =
        some ⟨0x000000000000002A_00000110#96, []⟩ ∧
      steps { fetching with status := .idle, inputs := [.step 0] }
        (fun t => t.readReg 1 == 42 && t.reply == some (.next (.pc 1)) && t.status == .idle) = true := by decide

/-- A reserved opcode, an ill-formed record (add with an immediate) and a shift by 64 under `refuse`, at index 0. -/
theorem test_witness_StepInterfaceMatchesRun_stops :
    decodeDir specDefaults 0x00000000000000000000_0000#96 = .error (.reservedOpcode 0) ∧
      decodeDir specDefaults 0x000000000000000102010301#96 = .error .illFormed ∧
      refuses { fetching with status := .idle, inputs := [.step 0], program := [⟨0x000000000000000102010301#96, []⟩] }
        .illFormedDir = true ∧
      decodeDir specDefaults 0x000000000000004000020111#96 = .ok (.slli 1 2 64) ∧
      faults (.slli 1 2 64) { fetching with inputs := [] } (.unmodelled .shiftAmount 0) = true := by decide

theorem test_witness_AdhocInstruction :
    (asked (.execute "jal x1, 1000".toList)).status ≠ .running ∧
      decodeLine specDefaults "jal x1, 1000".toList = .instr (.jal 1 1000) ∧
      (1 : RegIdx).toNat < (asked (.execute "jal x1, 1000".toList)).regs.length ∧
      decodeLine specDefaults "nop".toList = .error (.unknownOpcode "nop".toList) := by decide

/-- An ad-hoc jalr and an ad-hoc branch past the end of an empty program, under each order of the link. -/
theorem test_witness_AdhocInstruction_unchecked :
    decodeLine specDefaults "jalr x1, x2, 9".toList = .instr (.jalr 1 2 9) ∧ (1 : RegIdx) ≠ 2 ∧
      decodeLine specDefaults "jalr x1, x1, 9".toList = .instr (.jalr 1 1 9) ∧
      ({ specDefaults with jalrLinkOrder := .oldRs1 } : Params).jalrLinkOrder = .oldRs1 ∧
      ({ specDefaults with jalrLinkOrder := .newRs1 } : Params).jalrLinkOrder = .newRs1 ∧
      decodeLine specDefaults "beq x0, x0, -9".toList = .instr (.beq 0 0 (-9)) ∧
      decodeLine specDefaults "bne x0, x0, 9".toList = .instr (.bne 0 0 9) ∧
      steps (asked (.execute "jalr x1, x2, 9".toList)) (fun t => t.reply == some (.next (.pc 9))) = true ∧
      steps (asked (.execute "jalr x0, x2, -1".toList)) (fun t => t.reply == some (.next (.pc (2 ^ 64 - 1)))) = true := by
  decide

theorem test_witness_AdhocMatchesRun :
    (asked (.execute "sb x0, -1(x0)".toList)).status ≠ .running ∧
      decodeLine specDefaults "sb x0, -1(x0)".toList = .instr (.sb 0 0 (-1)) ∧
      leads (.sb 0 0 (-1)) { asked (.execute []) with inputs := [], status := .running, draws := 1 }
        (fun t => failed t (.memoryOutOfBounds (-1) 1)) = true ∧
      leads (.addi 1 0 5) { asked (.execute []) with inputs := [], status := .running, draws := 1 }
        (fun t => t.status == .halted && t.readReg 1 == 5) = true := by decide

/-- L1-1's registers are dumped with index 0 as 0. -/
theorem test_witness_DumpRegistersGivesValues :
    steps { plain [(1, 42), (2, 58), (3, 100)] with status := .halted, inputs := [.dumpRegisters] }
      (fun t => t.reply == some (.registers (0 :: 42 :: 58 :: 100 :: List.replicate 28 0))) = true := by decide

theorem fetching_inv : fetching.Inv :=
  ⟨by decide, by decide, by decide, by decide, by
    intro rec h
    have h' : rec = ⟨0x000000000000002A_00000110#96, []⟩ := List.mem_singleton.1 h
    subst h'
    exact ⟨.addi 1 0 42, by decide⟩, by decide, rfl⟩

theorem test_witness_StepKeepsInvariant : fetching.Inv ∧ steps fetching (fun t => t.readReg 1 == 42) = true :=
  ⟨fetching_inv, by decide⟩

theorem test_witness_ConstructionMeetsInvariant :
    specDefaults.Valid ∧ ({ specDefaults with nreg := 128, memCapacity := 0 } : Params).Valid ∧
      ({ specDefaults with memCapacity := 2 ^ 32, immMin := -(2 ^ 63), immMax := 2 ^ 63 - 1 } : Params).Valid := by decide

theorem test_witness_OnlyRunWithoutProgramRefused : (asked .run).Inv ∧ refuses (asked .run) .noProgram = true :=
  ⟨⟨by decide, by decide, by decide, by decide, fun rec h => absurd h List.not_mem_nil, by decide, rfl⟩, by decide⟩

/-- The run of `fetching` on an instance with other parameters. -/
def fetchingOn (p : Params) : State := { fetching with cfg := p }

theorem fetchingOn_inv {p : Params} (hr : p.InRange) (hn : fetching.regs.length = p.nreg)
    (hd : decodeDir p 0x000000000000002A_00000110#96 = .ok (.addi 1 0 42)) : (fetchingOn p).Inv :=
  ⟨hr, hn, fetching_inv.mem, rfl, by
    intro rec h
    have h' : rec = ⟨0x000000000000002A_00000110#96, []⟩ := List.mem_singleton.1 h
    subst h'
    exact ⟨_, hd⟩, fetching_inv.running, rfl⟩

/-- The spec's settings that leave no form without meaning. -/
def everyFormParams : Params :=
  { specDefaults with shiftOversize := .mask6, uImmMode := .wide64, jalrLinkOrder := .oldRs1 }

theorem test_witness_RunNeverStopsTheMachine :
    everyFormParams.Valid ∧ (fetchingOn everyFormParams).Inv ∧ (fetchingOn everyFormParams).status = .running ∧
      RunsEveryForm (fetchingOn everyFormParams).cfg ∧ (fetchingOn everyFormParams).PortOnContract :=
  ⟨by decide, fetchingOn_inv (by decide) (by decide) (by decide), by decide, ⟨.inl rfl, by decide, by decide⟩,
    fun a h => absurd h List.not_mem_nil⟩

theorem test_witness_ParametersAndProgramFixed :
    fetching.status = .running ∧ steps fetching (fun t => t.cfg == resetParams) = true := by decide

end Sys2Proof.Tests
end

section
/-! What every instruction leaves as it was, and what a step leaves of the parameters and the program store: the statements
on the scope of the machine (00_scope.md R8, R13, R14). -/

namespace Sys2Proof.Machine

/-! ### What an instruction writes (R14, R67) -/

/-- A write to a register, in the file or beyond it, leaves every other register. -/
theorem State.readReg_writeReg_ne (s : State) {i r : RegIdx} (h : r ≠ i) (v : Word) :
    (s.writeReg i v).readReg r = s.readReg r := by
  have hne : i.toNat ≠ r.toNat := fun he => h (BitVec.eq_of_toNat_eq he.symm)
  unfold State.writeReg
  split
  · rfl
  · simp [State.readReg, List.getElem?_set_ne hne]

theorem State.readReg_applyReg (s : State) {w : Option (RegIdx × Word)} {r : RegIdx} (h : ∀ v, w ≠ some (r, v)) :
    (s.applyReg w).readReg r = s.readReg r := by
  rcases w with _ | ⟨i, v⟩
  · rfl
  · exact s.readReg_writeReg_ne (fun hr => h v (by rw [hr])) v

theorem State.applyReg_regs_congr {s u : State} (h : u.regs = s.regs) (w : Option (RegIdx × Word)) :
    (u.applyReg w).regs = (s.applyReg w).regs := by
  rcases w with _ | ⟨i, v⟩
  · exact h
  · simp only [State.applyReg_some, State.writeReg]
    split <;> simp [h]

theorem State.applyMem_mem_congr {s u : State} (h : u.mem = s.mem) (m : Option (Nat × Nat × Word)) :
    (u.applyMem m).mem = (s.applyMem m).mem := by
  rcases m with _ | ⟨a, n, v⟩
  · exact h
  · simp [h]

/-- An instruction that stores has no destination register. -/
theorem destination_eq_none_or_storeOperand_eq_none (i : Instr) : destination i = none ∨ storeOperand i = none := by
  cases i with
  | sw | sh | sb => exact .inl rfl
  | _ => exact .inr rfl

/-- The writes of an instruction: at most one register, its destination, and at most one range of bytes, in data memory at
the effective address of its store operand. -/
structure InstrWrites (i : Instr) (s t : State) (w : Option (RegIdx × Word)) (m : Option (Nat × Nat × Word)) : Prop where
  regs : t.regs = (s.applyReg w).regs
  mem : t.mem = (s.applyMem m).mem
  reg_dest : ∀ rd v, w = some (rd, v) → destination i = some rd
  mem_operand : ∀ a n v, m = some (a, n, v) → a + n ≤ s.cfg.memCapacity ∧
    ∃ rs1 imm, storeOperand i = some (rs1, imm, n) ∧ s.effectiveAddress rs1 imm = a

/-- Every instruction that gives a next state makes such writes, or none. -/
theorem exec_instrWrites {i : Instr} {s t : State} (h : exec i s = .next t) : ∃ w m, InstrWrites i s t w m := by
  rcases exec_settles i s with ⟨why, hf⟩ | ⟨u, r, hu, hmove, hsane⟩
  · rw [hf] at h; cases h
  · rw [hu] at h
    cases h
    obtain ⟨-, hregs, -, hmem, -⟩ := hmove.same
    match r, hsane with
    | .error e, _ => exact ⟨none, none, by simp [State.settle, hregs], by simp [State.settle, hmem], by simp, by simp⟩
    | .ok res, hsane =>
      obtain ⟨-, -, hdest, hstore⟩ := hsane res rfl
      refine ⟨res.regWrite, res.memWrite, ?_, ?_, hdest, fun a n v hw => ?_⟩
      · rw [State.settle, State.commit_regs, State.applyReg_regs_congr hregs]
      · rw [State.settle, State.commit_mem, State.applyMem_mem_congr hmem]
      · obtain ⟨hcap, -, -, hop⟩ := hstore a n v hw
        exact ⟨hcap, hop⟩

theorem InstrWrites.readReg {i : Instr} {s t : State} {w m} (h : InstrWrites i s t w m) {r : RegIdx}
    (hr : destination i ≠ some r) : t.readReg r = s.readReg r := by
  rw [State.readReg_congr h.regs, s.readReg_applyReg fun v hw => hr (h.reg_dest r v hw)]

theorem InstrWrites.sameMem {i : Instr} {s t : State} {w m} (h : InstrWrites i s t w m)
    (hi : storeOperand i = none) : SameMem s t := by
  intro a
  rcases m with _ | ⟨b, n, v⟩
  · rw [h.mem, State.applyMem_none]
  · obtain ⟨-, _, _, hop, -⟩ := h.mem_operand b n v rfl
    rw [hi] at hop
    cases hop

theorem InstrWrites.writesAtMost {i : Instr} {s t : State} {w m} (h : InstrWrites i s t w m) (hwf : s.mem.wf = true)
    {rs1 : RegIdx} {imm : Int} {n : Nat} (hi : storeOperand i = some (rs1, imm, n)) :
    WritesAtMost s t (s.effectiveAddress rs1 imm) n := by
  rcases m with _ | ⟨a, k, v⟩
  · have hsame : SameMem s t := fun b => by rw [h.mem, State.applyMem_none]
    exact ⟨fun b _ => hsame b, .inl hsame⟩
  · obtain ⟨hcap, _, _, hop, haddr⟩ := h.mem_operand a k v rfl
    rw [hi] at hop
    cases hop
    rw [haddr]
    refine ⟨fun b hb => ?_, .inr (by omega)⟩
    rw [h.mem, State.applyMem_some, State.writeMem_mem, Memory.read_writeLE_outside hwf (by omega)]

/-! ### The parameters and the program store (R8, R44, R77) -/

theorem SameStore.trans {s t u : State} (h : SameStore s t) (h' : SameStore t u) : SameStore s u := by
  obtain ⟨hcfg, hprog, hvalid, hinputs, hserved⟩ := h
  obtain ⟨hcfg', hprog', hvalid', hinputs', hserved'⟩ := h'
  exact ⟨hcfg'.trans hcfg, hprog'.trans hprog, hvalid'.trans hvalid, hinputs'.trans hinputs, hserved'.trans hserved⟩

theorem PortMove.sameStore {s u : State} (h : PortMove s u) : SameStore s u := by
  obtain ⟨hcfg, -, -, -, hprog, hvalid, -, hserved, hinputs, -⟩ := h.same
  exact ⟨hcfg, hprog, hvalid, hinputs, hserved⟩

theorem State.takeError_sameStore (s : State) (e : ErrorKind) : SameStore s (s.takeError e) := by
  simp [SameStore]

theorem State.settle_sameStore (s : State) (r : Except ErrorKind Result) : SameStore s (s.settle r) := by
  match r with
  | .ok res => exact s.commit_store res
  | .error e => exact s.takeError_sameStore e

theorem exec_sameStore {i : Instr} {s t : State} (h : exec i s = .next t) : SameStore s t := by
  rcases exec_settles i s with ⟨why, hf⟩ | ⟨u, r, hu, hmove, -⟩
  · rw [hf] at h; cases h
  · rw [hu] at h
    cases h
    exact hmove.sameStore.trans (u.settle_sameStore r)

theorem runRecord_sameStore {rec : Record} {s t : State} (h : runRecord rec s = .next t) : SameStore s t := by
  unfold runRecord at h
  split at h
  · exact exec_sameStore h
  · cases h; exact s.takeError_sameStore _
  · cases h

/-- A turn of a run serves the run, and changes nothing else of the store. -/
theorem runTurn_store {s t : State} (h : runTurn s = .next t) :
    t.cfg = s.cfg ∧ t.program = s.program ∧ t.progValid = s.progValid ∧ t.inputs = s.inputs := by
  unfold runTurn at h
  split at h
  · cases h; simp
  · obtain ⟨hcfg, hprog, hvalid, hinputs, -⟩ := runRecord_sameStore h
    exact ⟨hcfg, hprog, hvalid, hinputs⟩

/-! ### The parameters over the host operations (R8, R360) -/

theorem doneServing_next {o : Host.Outcome State Fault Refusal} {t : State} (h : doneServing o = .next t) :
    ∃ u, o = .next u ∧ t = u.serve .run := by
  unfold doneServing at h
  split at h
  · cases h; exact ⟨_, rfl, rfl⟩
  · cases h
  · cases h

theorem hostStep_cfg {p : Word} {s t : State} (h : hostStep p s = .next t) : t.cfg = s.cfg := by
  obtain ⟨u, hu, rfl⟩ := doneServing_next h
  split at hu
  · cases hu; simp
  · exact (runRecord_sameStore hu).1

theorem hostExecute_cfg {line : List Char} {s t : State} (h : hostExecute line s = .next t) : t.cfg = s.cfg := by
  unfold hostExecute at h
  split at h
  · cases h; rfl
  · cases h; rfl
  · obtain ⟨u, hu, rfl⟩ := doneServing_next h
    exact (exec_sameStore hu).1

theorem hostLoad_cfg (text : List Char) (s : State) : (hostLoad text s).cfg = s.cfg := by
  unfold hostLoad; split <;> rfl

theorem startRun_cfg (s : State) : (startRun s).cfg = s.cfg := by
  unfold startRun; split <;> rfl

theorem reconstruct_cfg (s : State) : (reconstruct s).cfg = s.cfg := rfl

theorem hostOp_cfg {op : HostOp} {s t : State} (h : hostOp op s = .next t) : t.cfg = s.cfg := by
  cases op with
  | loadProgram text => cases h; exact hostLoad_cfg text s
  | run =>
    simp only [hostOp] at h
    split at h
    · cases h; exact startRun_cfg s
    · cases h
  | step p => exact hostStep_cfg h
  | execute line => exact hostExecute_cfg h
  | dumpRegisters => cases h; rfl
  | reconstruct => cases h; exact reconstruct_cfg s

theorem idleTurn_cfg {s t : State} (h : idleTurn s = .next t) : t.cfg = s.cfg := by
  unfold idleTurn at h
  split at h
  · cases h; rfl
  · next rest _ => exact hostOp_cfg (s := { s with inputs := rest }) h

theorem step_running {s : State} (h : s.status = .running) : step s = runTurn s := by
  simp [step, machineTurn, h]

theorem step_not_running {s : State} (h : s.status ≠ .running) : step s = idleTurn s := by
  unfold step machineTurn
  split
  · exact absurd ‹_› h
  all_goals rfl

end Sys2Proof.Machine

open Sys2Proof Sys2Proof.Machine

/-- Settles O39: an instruction's writes are those of its result record, and every record is sane. -/
theorem oneRegisterOrOneRange : Obligations.OneRegisterOrOneRange := by
  intro i s t hwf h
  obtain ⟨w, m, hw⟩ := exec_instrWrites h
  exact ⟨destination_eq_none_or_storeOperand_eq_none i, fun r hr => hw.readReg hr, hw.sameMem,
    fun _ _ _ hi => hw.writesAtMost hwf hi⟩

/-- Settles O41: an instruction faults as Unmodelled at its own index, or settles a result record or an error. -/
theorem onlyUnmodelledStops : Obligations.OnlyUnmodelledStops := by
  intro i s
  rcases exec_settles i s with hfault | ⟨u, r, hnext, -⟩
  · exact .inr hfault
  · exact .inl ⟨u.settle r, hnext⟩

/-- Settles O56: a turn of a run keeps the whole store, a host operation the parameters. -/
theorem parametersAndProgramFixed : Obligations.ParametersAndProgramFixed := by
  intro s t h
  by_cases hrun : s.status = .running
  · rw [step_running hrun] at h
    obtain ⟨hcfg, hstore⟩ := runTurn_store h
    exact ⟨hcfg, fun _ => hstore⟩
  · rw [step_not_running hrun] at h
    exact ⟨idleTurn_cfg h, fun hr => absurd hr hrun⟩
end

section
/-! The decoder gives well-formed instructions only, and their records decode back: what a load leaves in the program
store (30_encoding.md R110 to R115, 40_engine.md R150). -/

namespace Sys2Proof

/-! ### A record decodes back (R110, R114) -/

theorem encode_opcodeField (i : Instr) : Laws.OpcodeField.Statement i := by
  cases i <;> exact Laws.OpcodeField.statement_of_row rfl rfl

theorem instrFields_imm (i : Instr) : (instrFields i).imm = i.immediate.getD 0 := by
  cases i <;> rfl

theorem instrFields_imm_bounds {p : Params} {i : Instr} (hp : p.InRange) (h : WellFormed p i = true) :
    -(2 ^ 63) ≤ (instrFields i).imm ∧ (instrFields i).imm ≤ 2 ^ 63 - 1 := by
  obtain ⟨-, -, ⟨hlo, -⟩, -, hhi⟩ := hp
  rw [instrFields_imm]
  cases hi : i.immediate with
  | none => decide
  | some z =>
    simp only [WellFormed, hi, Option.all_some, immediateInRange, Bool.and_eq_true, decide_eq_true_eq] at h
    simp only [Option.getD_some]
    omega

/-- The record of a well-formed instruction decodes to it. -/
theorem decodeDir_encode {p : Params} {i : Instr} (hp : p.InRange) (h : WellFormed p i = true) :
    decodeDir p (encode i) = .ok i := by
  obtain ⟨hlo, hhi⟩ := instrFields_imm_bounds hp h
  obtain ⟨row, hrow, hshape⟩ := encode_opcodeField i
  have hfields : unpackDir (encode i) = instrFields i := unpackDir_packDir _ hlo hhi
  rw [hfields] at hrow
  simp [decodeDir, hfields, hrow, hshape, h]

/-! ### A line gives a well-formed instruction (R94, R96, R97, R115) -/

theorem ok_of_bind_eq_ok {ε α β : Type} {x : Except ε α} {f : α → Except ε β} {b : β} (h : x >>= f = .ok b) :
    ∃ a, x = .ok a ∧ f a = .ok b := by
  cases x with
  | error e => cases h
  | ok a => exact ⟨a, rfl, h⟩

theorem parseRegister_inRange {p : Params} {tok : List Char} {r : RegIdx} (h : parseRegister p tok = .ok r) :
    registerInRange p r = true := by
  unfold parseRegister at h
  split at h
  · split at h
    · split at h
      · next n _ hn =>
        cases h
        simp only [registerInRange, BitVec.toNat_ofNat, decide_eq_true_eq]
        omega
      · cases h
    · cases h
  · cases h

theorem parseImmediate_inRange {p : Params} {tok : List Char} {z : Int} (h : parseImmediate p tok = .ok z) :
    immediateInRange p z = true := by
  unfold parseImmediate at h
  split at h
  · cases h
  · split at h
    · next hz => cases h; exact hz
    · cases h

theorem parseMemoryOperand_inRange {p : Params} {tok : List Char} {o : RegIdx × Int}
    (h : parseMemoryOperand p tok = .ok o) : registerInRange p o.1 = true ∧ immediateInRange p o.2 = true := by
  unfold parseMemoryOperand at h
  split at h
  · cases h
  · obtain ⟨imm, himm, h⟩ := ok_of_bind_eq_ok h
    obtain ⟨rs1, hrs1, h⟩ := ok_of_bind_eq_ok h
    cases h
    exact ⟨parseRegister_inRange hrs1, parseImmediate_inRange himm⟩

/-- The instruction a shape builds has the register and immediate operands it is given, and no others (R101). -/
def Shape.OperandsFit : Shape → Prop
  | .rdRs1Rs2 mk => ∀ a b c, (mk a b c).regs = [a, b, c] ∧ (mk a b c).immediate = none
  | .rdRs1Imm mk | .rs1Rs2Imm mk | .load mk | .store mk =>
    ∀ a b z, (mk a b z).regs = [a, b] ∧ (mk a b z).immediate = some z
  | .rdImm mk => ∀ a z, (mk a z).regs = [a] ∧ (mk a z).immediate = some z
  | .rdOnly mk => ∀ a, (mk a).regs = [a] ∧ (mk a).immediate = none
  | .rdRs1 mk => ∀ a b, (mk a b).regs = [a, b] ∧ (mk a b).immediate = none

theorem opTable_operandsFit : ∀ row ∈ opTable, row.shape.OperandsFit := by
  simp only [opTable, rTypeRows, iTypeRows, upperAndJumpRows, bTypeRows, loadStoreRows, quantumRows, List.cons_append,
    List.nil_append, List.forall_mem_cons, Shape.OperandsFit, Instr.regs, Instr.immediate, List.not_mem_nil,
    false_implies, implies_true, and_self]

theorem wellFormed_of_operands {p : Params} {i : Instr} {rs : List RegIdx} {z : Option Int}
    (h : i.regs = rs ∧ i.immediate = z) (hrs : ∀ r ∈ rs, registerInRange p r = true)
    (hz : ∀ v ∈ z, immediateInRange p v = true) : WellFormed p i = true := by
  obtain ⟨rfl, rfl⟩ := h
  simpa [WellFormed, List.all_eq_true, Option.all_eq_true] using ⟨hrs, hz⟩

theorem parseOperands_wellFormed {p : Params} {sh : Shape} {toks : List (List Char)} {i : Instr}
    (hsh : sh.OperandsFit) (h : parseOperands p sh toks = .ok i) : WellFormed p i = true := by
  unfold parseOperands at h
  split at h
  case h_1 =>
    obtain ⟨a, ha, h⟩ := ok_of_bind_eq_ok h
    obtain ⟨b, hb, h⟩ := ok_of_bind_eq_ok h
    obtain ⟨c, hc, h⟩ := ok_of_bind_eq_ok h
    cases h
    exact wellFormed_of_operands (hsh a b c)
      (by simp [parseRegister_inRange ha, parseRegister_inRange hb, parseRegister_inRange hc]) (by simp)
  case h_2 | h_4 =>
    obtain ⟨a, ha, h⟩ := ok_of_bind_eq_ok h
    obtain ⟨b, hb, h⟩ := ok_of_bind_eq_ok h
    obtain ⟨z, hz, h⟩ := ok_of_bind_eq_ok h
    cases h
    exact wellFormed_of_operands (hsh a b z) (by simp [parseRegister_inRange ha, parseRegister_inRange hb])
      (by simp [parseImmediate_inRange hz])
  case h_3 =>
    obtain ⟨a, ha, h⟩ := ok_of_bind_eq_ok h
    obtain ⟨z, hz, h⟩ := ok_of_bind_eq_ok h
    cases h
    exact wellFormed_of_operands (hsh a z) (by simp [parseRegister_inRange ha]) (by simp [parseImmediate_inRange hz])
  case h_5 | h_6 =>
    obtain ⟨a, ha, h⟩ := ok_of_bind_eq_ok h
    obtain ⟨⟨b, z⟩, ho, h⟩ := ok_of_bind_eq_ok h
    obtain ⟨hb, hz⟩ := parseMemoryOperand_inRange ho
    cases h
    exact wellFormed_of_operands (hsh a b z) (by simp [parseRegister_inRange ha, hb]) (by simp [hz])
  case h_7 =>
    obtain ⟨a, ha, h⟩ := ok_of_bind_eq_ok h
    cases h
    exact wellFormed_of_operands (hsh a) (by simp [parseRegister_inRange ha]) (by simp)
  case h_8 =>
    obtain ⟨a, ha, h⟩ := ok_of_bind_eq_ok h
    obtain ⟨b, hb, h⟩ := ok_of_bind_eq_ok h
    cases h
    exact wellFormed_of_operands (hsh a b) (by simp [parseRegister_inRange ha, parseRegister_inRange hb]) (by simp)
  case h_9 => cases h

theorem decodeLine_wellFormed {p : Params} {line : List Char} {i : Instr} (h : decodeLine p line = .instr i) :
    WellFormed p i = true := by
  unfold decodeLine at h
  repeat' split at h
  all_goals cases h
  next row hrow _ hops =>
    exact parseOperands_wellFormed (opTable_operandsFit row (List.mem_of_find?_eq_some hrow)) hops

theorem decodeLines_decode {p : Params} (hp : p.InRange) {n : Nat} {lines : List (List Char)} {rs : List Record}
    (h : decodeLines p n lines = .ok rs) : ∀ rec ∈ rs, ∃ i, decodeDir p rec.dir = .ok i := by
  induction lines generalizing n rs with
  | nil => cases h; simp
  | cons l ls ih =>
    unfold decodeLines at h
    split at h
    · exact ih h
    · cases h
    · next i hi =>
      split at h
      · next rs' hrs =>
        cases h
        simp only [List.mem_cons, forall_eq_or_imp]
        exact ⟨⟨i, decodeDir_encode hp (decodeLine_wellFormed hi)⟩, ih hrs⟩
      · cases h

/-- A load stores well-formed records only. -/
theorem decodeProgram_decode {p : Params} (hp : p.InRange) {text : List Char} {rs : List Record}
    (h : decodeProgram p text = .ok rs) : ∀ rec ∈ rs, ∃ i, decodeDir p rec.dir = .ok i :=
  decodeLines_decode hp h

end Sys2Proof
end

section
/-! The state of one machine (10_state.md): what its registers read, what a construction holds, where the pc of a
run stands, and the invariant that every step keeps. -/

namespace Sys2Proof.Machine

/-! ### Registers (R32, R33, R37) -/

theorem State.readReg_of_getElem? {s : State} {i : RegIdx} {w : Word} (hi : i ≠ 0) (h : s.regs[i.toNat]? = some w) :
    s.readReg i = w := by
  rw [State.readReg, if_neg hi, List.getD_eq_getElem?_getD, h, Option.getD_some]

@[simp] theorem State.writeReg_zero (s : State) (v : Word) : s.writeReg 0 v = s := rfl

@[simp] theorem State.dumpRegisters_length (s : State) : s.dumpRegisters.length = s.regs.length := by
  simp [State.dumpRegisters]

theorem State.dumpRegisters_getElem? {s : State} {r : RegIdx} (h : r.toNat < s.regs.length) :
    s.dumpRegisters[r.toNat]? = some (s.readReg r) := by
  by_cases hr : r = 0
  · subst hr
    exact List.getElem?_set_self h
  · have hne : 0 ≠ r.toNat := fun h0 => hr (BitVec.eq_of_toNat_eq h0.symm)
    rw [State.dumpRegisters, List.getElem?_set_ne hne, List.getElem?_eq_getElem h,
      State.readReg_of_getElem? hr (List.getElem?_eq_getElem h)]

/-! ### A constructed machine (R36, R48, R360) -/

@[simp] theorem initialRegs_length (p : Params) : (initialRegs p).length = p.nreg := by
  simp [initialRegs]

/-- With no construction values given, every register is 0. -/
theorem initialRegs_of_nil {p : Params} (h : p.initRegs = []) : initialRegs p = List.replicate p.nreg 0 := by
  simp [initialRegs, h, List.map_const']

theorem State.reset_readReg (r : RegIdx) : State.reset.readReg r = 0 := by
  have hregs : State.reset.regs = List.replicate 32 0 := initialRegs_of_nil (p := resetParams) rfl
  simp only [State.readReg, hregs, List.getD_eq_getElem?_getD, List.getElem?_replicate]
  split
  · rfl
  · split <;> rfl

theorem specDefaults_valid : specDefaults.Valid := by decide

/-! ### The part of the invariant that does not speak of a run -/

/-- What the invariant says of the parameters, the registers, data memory and the program store. -/
structure State.StaticInv (s : State) : Prop where
  params : s.cfg.InRange
  regs : s.regs.length = s.cfg.nreg
  mem : s.mem.wf = true
  within : s.mem.within s.cfg.memCapacity = true
  store : ∀ rec ∈ s.program, ∃ i, decodeDir s.cfg rec.dir = .ok i

theorem State.Inv.static {s : State} (h : s.Inv) : s.StaticInv :=
  ⟨h.params, h.regs, h.mem, h.within, h.store⟩

theorem State.StaticInv.inv {s : State} (h : s.StaticInv)
    (hrun : s.status = .running → s.pc.toNat < s.program.length ∧ s.progValid = true) (hserved : s.served = .run) :
    s.Inv :=
  ⟨h.params, h.regs, h.mem, h.within, h.store, hrun, hserved⟩

theorem State.StaticInv.congr {s t : State} (h : s.StaticInv) (hcfg : t.cfg = s.cfg)
    (hregs : t.regs.length = s.regs.length) (hmem : t.mem = s.mem) (hprog : t.program = s.program) : t.StaticInv where
  params := hcfg ▸ h.params
  regs := by rw [hregs, hcfg, h.regs]
  mem := hmem ▸ h.mem
  within := by rw [hmem, hcfg]; exact h.within
  store := by rw [hprog, hcfg]; exact h.store

/-- With no run in progress the rest of the invariant says nothing of the pc, the reply and the port. -/
theorem State.StaticInv.inv_of_idle {s t : State} (h : s.StaticInv) (hcfg : t.cfg = s.cfg)
    (hregs : t.regs.length = s.regs.length) (hmem : t.mem = s.mem) (hprog : t.program = s.program)
    (hstatus : t.status ≠ .running) (hserved : t.served = .run) : t.Inv :=
  (h.congr hcfg hregs hmem hprog).inv (fun hrun => absurd hrun hstatus) hserved

theorem State.construct_staticInv {p : Params} (hp : p.InRange) : (State.construct p).StaticInv where
  params := hp
  regs := initialRegs_length p
  mem := Memory.wf_ofCells p.memCapacity p.initMem
  within := Memory.within_ofCells p.memCapacity p.initMem
  store := fun _ h => absurd h List.not_mem_nil

theorem State.construct_inv {p : Params} (hp : p.InRange) : (State.construct p).Inv :=
  (State.construct_staticInv hp).inv_of_idle rfl rfl rfl rfl Status.noConfusion rfl

theorem State.StaticInv.takeError {s : State} (h : s.StaticInv) (e : ErrorKind) : (s.takeError e).StaticInv :=
  h.congr (by simp) (by simp) (by simp) (by simp)

/-- The writes of an instruction keep the number of registers and lie in data memory (R30, R72). -/
theorem State.StaticInv.exec {i : Instr} {s t : State} (h : s.StaticInv) (ht : exec i s = .next t) : t.StaticInv := by
  obtain ⟨w, m, hw⟩ := exec_instrWrites ht
  obtain ⟨hcfg, hprog, -⟩ := exec_sameStore ht
  have hmem : t.mem.wf = true ∧ t.mem.within s.cfg.memCapacity = true := by
    rw [hw.mem]
    rcases m with _ | ⟨a, n, v⟩
    · exact ⟨h.mem, h.within⟩
    · exact ⟨Memory.wf_writeLE h.mem a n v, Memory.within_writeLE h.within (hw.mem_operand a n v rfl).1 v⟩
  exact {
    params := hcfg ▸ h.params
    regs := by rw [hw.regs, State.applyReg_regs_length, hcfg, h.regs]
    mem := hmem.1
    within := hcfg ▸ hmem.2
    store := by rw [hprog, hcfg]; exact h.store }

theorem State.StaticInv.runRecord {rec : Record} {s t : State} (h : s.StaticInv) (ht : runRecord rec s = .next t) :
    t.StaticInv := by
  unfold Machine.runRecord at ht
  split at ht
  · exact h.exec ht
  · cases ht; exact h.takeError _
  · cases ht

/-! ### The pc of a run (R40, R144, R146) -/

/-- The pc is in [0, len], and below `len` while a run is in progress. -/
def State.PcInProgram (s : State) : Prop :=
  s.pc.toNat ≤ s.len ∧ (s.status = .running → s.pc.toNat < s.len)

/-- A Halt, or a next pc in [0, len]. -/
def Next.InProgram (len : Nat) : Next → Prop
  | .pc t => 0 ≤ t ∧ t ≤ len
  | .halt => True

theorem u64_toNat_le {z : Int} (h : 0 ≤ z) : ((u64 z).toNat : Int) ≤ z := by
  rw [BitVec.toNat_ofInt]
  omega

theorem SaneResult.next_inProgram {i : Instr} {s : State} {r : Result} (h : SaneResult i s r) (hs : s.served = .run)
    (hpc : s.pc.toNat < s.len) : r.next.InProgram s.len := by
  obtain ⟨hseq | ⟨z, hz⟩, -⟩ := h
  · rw [hseq, State.seqNext_run hs, Next.InProgram]
    omega
  · rcases checkTarget_cases s z with ⟨hok, hin | ⟨p, line, hadhoc⟩⟩ | hhalt | herr
    · rw [← Except.ok.inj (hok.symm.trans hz)]
      exact hin
    · rw [hs] at hadhoc
      cases hadhoc
    · rw [← Except.ok.inj (hhalt.symm.trans hz)]
      trivial
    · rw [herr] at hz
      cases hz

theorem State.takeNext_pcInProgram {s : State} {n : Next} (hs : s.served = .run) (hpc : s.pc.toNat ≤ s.len)
    (hn : n.InProgram s.len) : (s.takeNext n).PcInProgram := by
  have hlen : (s.takeNext n).len = s.len := by simp [State.len]
  unfold State.PcInProgram
  rw [hlen]
  cases n with
  | halt => simpa [State.takeNext, hs] using hpc
  | pc t =>
    obtain ⟨hpc', hend⟩ := State.takeNext_goesTo hs t
    obtain ⟨h0, hle⟩ := hn
    have := u64_toNat_le h0
    rw [hpc']
    split at hend
    · exact ⟨by omega, fun hrun => by rw [hend.1] at hrun; cases hrun⟩
    · exact ⟨by omega, fun _ => by omega⟩

theorem State.commit_pcInProgram {s : State} {r : Result} (hs : s.served = .run) (hpc : s.pc.toNat ≤ s.len)
    (hn : r.next.InProgram s.len) : (s.commit r).PcInProgram :=
  State.takeNext_pcInProgram (by simpa using hs) (by simpa [State.len] using hpc) (by simpa [State.len] using hn)

theorem State.takeError_pcInProgram {s : State} (hpc : s.pc.toNat < s.len) (e : ErrorKind) :
    (s.takeError e).PcInProgram :=
  ⟨by simpa [State.len] using hpc.le, fun _ => by simpa [State.len] using hpc⟩

/-- An instruction of a run leaves its pc in the program. -/
theorem exec_pcInProgram {i : Instr} {s t : State} (hs : s.served = .run) (hpc : s.pc.toNat < s.len)
    (h : exec i s = .next t) : t.PcInProgram := by
  rcases exec_settles i s with ⟨why, hf⟩ | ⟨u, r, hu, hmove, hsane⟩
  · rw [hf] at h; cases h
  · rw [hu] at h
    cases h
    obtain ⟨-, -, hupc, -, hprog, -, -, hserved, -⟩ := hmove.same
    have hlen : u.len = s.len := congrArg List.length hprog
    have hupc' : u.pc.toNat < u.len := by rw [hupc, hlen]; exact hpc
    match r, hsane with
    | .error e, _ => exact State.takeError_pcInProgram hupc' e
    | .ok res, hsane =>
      have hnext := (hsane res rfl).next_inProgram hs hpc
      exact State.commit_pcInProgram (hserved.trans hs) hupc'.le (hlen ▸ hnext)

theorem runRecord_pcInProgram {rec : Record} {s t : State} (hs : s.served = .run) (hpc : s.pc.toNat < s.len)
    (h : runRecord rec s = .next t) : t.PcInProgram := by
  unfold runRecord at h
  split at h
  · exact exec_pcInProgram hs hpc h
  · cases h; exact State.takeError_pcInProgram hpc _
  · cases h

/-! ### The status outside a run (R152, R153) -/

theorem State.takeNext_status {s : State} (hs : s.served ≠ .run) (n : Next) : (s.takeNext n).status = s.status := by
  unfold State.takeNext
  split
  · exact absurd ‹_› hs
  all_goals rfl

theorem State.takeError_status {s : State} (hs : s.served ≠ .run) (e : ErrorKind) :
    (s.takeError e).status = s.status := by
  unfold State.takeError
  split
  · exact absurd ‹_› hs
  all_goals rfl

theorem State.settle_status {s : State} (hs : s.served ≠ .run) (r : Except ErrorKind Result) :
    (s.settle r).status = s.status := by
  match r with
  | .error e => exact State.takeError_status hs e
  | .ok res => exact (State.takeNext_status (by simpa using hs) res.next).trans (by simp)

/-- An instruction of the step interface or of an ad-hoc line leaves the status. -/
theorem exec_status {i : Instr} {s t : State} (hs : s.served ≠ .run) (h : exec i s = .next t) :
    t.status = s.status := by
  rcases exec_settles i s with ⟨why, hf⟩ | ⟨u, r, hu, hmove, -⟩
  · rw [hf] at h; cases h
  · rw [hu] at h
    cases h
    obtain ⟨-, -, -, -, -, -, hstatus, hserved, -⟩ := hmove.same
    rw [State.settle_status (hserved ▸ hs), hstatus]

theorem runRecord_status {rec : Record} {s t : State} (hs : s.served ≠ .run) (h : runRecord rec s = .next t) :
    t.status = s.status := by
  unfold runRecord at h
  split at h
  · exact exec_status hs h
  · cases h; exact State.takeError_status hs _
  · cases h

/-! ### Every step keeps the invariant -/

/-- A turn of a run: one instruction, after which the pc is in the program. -/
theorem State.Inv.runTurn {s t : State} (h : s.Inv) (hrun : s.status = .running) (ht : runTurn s = .next t) :
    t.Inv := by
  obtain ⟨hpc, hvalid⟩ := h.running hrun
  simp only [Machine.runTurn, List.getElem?_eq_getElem hpc] at ht
  have hstatic : (s.serve .run).StaticInv := h.static.congr rfl rfl rfl rfl
  obtain ⟨-, -, hvalid', -, hserved⟩ := runRecord_sameStore ht
  obtain ⟨-, hbelow⟩ := runRecord_pcInProgram (s := s.serve .run) rfl hpc ht
  exact (hstatic.runRecord ht).inv (fun hrun' => ⟨hbelow hrun', hvalid'.trans hvalid⟩) hserved

theorem State.Inv.startRun {s : State} (h : s.Inv) (hvalid : s.progValid = true) : (startRun s).Inv := by
  unfold Machine.startRun
  split
  · exact h.static.inv_of_idle rfl rfl rfl rfl Status.noConfusion h.served
  · next hprog =>
    have hpos : 0 < s.program.length := List.length_pos_iff.2 (by simpa using hprog)
    exact State.StaticInv.inv (h.static.congr rfl rfl rfl rfl) (fun _ => ⟨hpos, hvalid⟩) h.served

section HostOps

variable {s t : State} (h : s.Inv) (hidle : s.status ≠ .running)
include h hidle

theorem State.Inv.hostLoad (text : List Char) : (hostLoad text s).Inv := by
  unfold Machine.hostLoad
  split
  · next records hrecords =>
    exact ⟨h.params, h.regs, h.mem, h.within, decodeProgram_decode h.params hrecords, fun hrun => absurd hrun hidle,
      h.served⟩
  · exact ⟨h.params, h.regs, h.mem, h.within, fun _ hrec => absurd hrec List.not_mem_nil,
      fun hrun => absurd hrun hidle, h.served⟩

theorem State.Inv.hostStep {p : Word} (ht : hostStep p s = .next t) : t.Inv := by
  obtain ⟨u, hu, rfl⟩ := doneServing_next ht
  have hstatic : (s.serve (.step p)).StaticInv := h.static.congr rfl rfl rfl rfl
  have hserved : (s.serve (.step p)).served ≠ .run := Served.noConfusion
  have hkept : u.StaticInv ∧ u.status = s.status := by
    split at hu
    · cases hu; exact ⟨hstatic.takeError _, (State.takeError_status hserved _).trans (s.serve_status _)⟩
    · exact ⟨hstatic.runRecord hu, (runRecord_status hserved hu).trans (s.serve_status _)⟩
  obtain ⟨hstatic', hstatus⟩ := hkept
  exact hstatic'.inv_of_idle rfl rfl rfl rfl (hstatus.trans_ne hidle) rfl

theorem State.Inv.hostExecute {line : List Char} (ht : hostExecute line s = .next t) : t.Inv := by
  unfold Machine.hostExecute at ht
  split at ht
  · cases ht
    exact h.static.inv_of_idle rfl rfl rfl rfl hidle h.served
  · cases ht
    exact h.static.inv_of_idle rfl rfl rfl rfl hidle h.served
  · obtain ⟨u, hu, rfl⟩ := doneServing_next ht
    have hstatic : u.StaticInv := by
      refine State.StaticInv.exec ?_ hu
      exact h.static.congr rfl rfl rfl rfl
    exact hstatic.inv_of_idle rfl rfl rfl rfl ((exec_status Served.noConfusion hu).trans_ne hidle) rfl

theorem State.Inv.hostOp {op : HostOp} (ht : hostOp op s = .next t) : t.Inv := by
  cases op with
  | loadProgram text => cases ht; exact h.hostLoad hidle text
  | run =>
    simp only [Machine.hostOp] at ht
    split at ht
    · next hvalid => cases ht; exact h.startRun hvalid
    · cases ht
  | step p => exact h.hostStep hidle ht
  | execute line => exact h.hostExecute hidle ht
  | dumpRegisters => cases ht; exact h.static.inv_of_idle rfl rfl rfl rfl hidle h.served
  | reconstruct =>
    cases ht
    exact (State.construct_staticInv h.params).inv_of_idle rfl rfl rfl rfl Status.noConfusion rfl

theorem State.Inv.idleTurn (ht : idleTurn s = .next t) : t.Inv := by
  unfold Machine.idleTurn at ht
  split at ht
  · cases ht; exact h
  · next rest _ =>
    have hrest : ({ s with inputs := rest } : State).Inv := h.static.inv_of_idle rfl rfl rfl rfl hidle h.served
    exact hrest.hostOp hidle ht

end HostOps

end Sys2Proof.Machine

open Sys2Proof Sys2Proof.Machine

/-- Settles O51: a turn of a run leaves the pc in the program, a host operation starts from no run in progress. -/
theorem stepKeepsInvariant : Obligations.StepKeepsInvariant := by
  intro s t h ht
  by_cases hrun : s.status = .running
  · rw [step_running hrun] at ht
    exact h.runTurn hrun ht
  · rw [step_not_running hrun] at ht
    exact h.idleTurn hrun ht

/-- Settles O14: each clause is a rule of the register file. -/
theorem registerReadWrite : Obligations.RegisterReadWrite := by
  intro s i v
  refine ⟨s.readReg_zero, s.writeReg_zero v, fun w hi => State.readReg_of_getElem? hi, fun hi hlt => ?_,
    fun j hj => s.readReg_writeReg_ne hj v, s.dumpRegisters_length, fun j => State.dumpRegisters_getElem?⟩
  rw [State.readReg_writeReg hlt, if_pos rfl, if_neg hi]

/-- Settles O31: the next pc is sequential or a checked target, and a Halt or an error keeps the pc. -/
theorem committedPcInProgram : Obligations.CommittedPcInProgram :=
  fun _ _ _ hs hpc h => (exec_pcInProgram hs hpc h).1

/-- Settles O50: an idle turn takes the waiting dump, which answers the register file. -/
theorem dumpRegistersGivesValues : Obligations.DumpRegistersGivesValues := by
  intro s rest hidle hinputs
  refine ⟨s.dumpRegisters, ?_, s.dumpRegisters_length, fun r => State.dumpRegisters_getElem?⟩
  rw [step_not_running hidle, idleTurn, hinputs]
  rfl

/-- Settles O52: the registers and bytes of a construction are as many and as bounded as its parameters say. -/
theorem constructionMeetsInvariant : Obligations.ConstructionMeetsInvariant :=
  ⟨fun _ hp => State.construct_inv hp, State.construct_inv specDefaults_valid.1⟩

/-- Settles O53: the fields of `State.construct specDefaults`. -/
theorem resetState : Obligations.ResetState :=
  ⟨rfl, rfl, rfl, rfl, State.reset_readReg, fun _ => rfl, initialRegs_length resetParams, rfl, rfl, rfl, rfl, rfl, rfl,
    rfl, rfl, specDefaults_valid, rfl, rfl, rfl, rfl, rfl, rfl, rfl, rfl⟩
end

section
/-! Data memory at the width of a load or a store (20_memory.md R65, R66, R70), and what no instruction changes (R44, R77). -/

namespace Sys2Proof.Machine

/-! ### Reads of n bytes (R65) -/

@[simp] theorem Memory.readLE_zero (m : Memory) (a : Nat) : m.readLE a 0 = 0 := rfl

theorem Memory.readLE_succ (m : Memory) (a n : Nat) :
    m.readLE a (n + 1) = (m.read a).toNat + 2 ^ 8 * m.readLE (a + 1) n := rfl

/-- `readLE` recurses at its lowest byte; this takes the highest byte off instead. -/
theorem Memory.readLE_succ_last (m : Memory) (a n : Nat) :
    m.readLE a (n + 1) = m.readLE a n + 2 ^ (8 * n) * (m.read (a + n)).toNat := by
  induction n generalizing a with
  | zero => simp [Memory.readLE_succ]
  | succ n ih =>
    rw [Memory.readLE_succ, ih, Memory.readLE_succ, show a + (n + 1) = a + 1 + n by omega]
    ring

/-- A read depends on its own bytes only. -/
theorem Memory.readLE_congr {m m' : Memory} {b j : Nat} (h : ∀ k < j, m.read (b + k) = m'.read (b + k)) :
    m.readLE b j = m'.readLE b j := by
  induction j with
  | zero => rfl
  | succ j ih =>
    rw [Memory.readLE_succ_last, Memory.readLE_succ_last, ih fun k hk => h k (by omega), h j j.lt_succ_self]

/-! ### What a write of n bytes leaves for a read (R66, R70) -/

theorem Memory.toNat_read_writeLE {m : Memory} (h : m.wf = true) {a n k : Nat} (hk : k < n) (v : Word) :
    ((m.writeLE a n v).read (a + k)).toNat = v.toNat / 2 ^ (8 * k) % 2 ^ 8 := by
  rw [Memory.read_writeLE_inside h hk, BitVec.extractLsb'_toNat, Nat.shiftRight_eq_div_pow]

theorem Memory.readLE_writeLE_inside {m : Memory} (h : m.wf = true) {a n k j : Nat} (hkj : k + j ≤ n) (v : Word) :
    (m.writeLE a n v).readLE (a + k) j = v.toNat / 2 ^ (8 * k) % 2 ^ (8 * j) := by
  induction j with
  | zero => simp [Nat.mod_one]
  | succ j ih =>
    have hbyte : ((m.writeLE a n v).read (a + k + j)).toNat = v.toNat / 2 ^ (8 * k) / 2 ^ (8 * j) % 2 ^ 8 := by
      rw [Nat.add_assoc, Memory.toNat_read_writeLE h (by omega), Nat.mul_add, Nat.pow_add, Nat.div_div_eq_div_mul]
    rw [Memory.readLE_succ_last, ih (by omega), hbyte, Nat.mul_add, Nat.pow_add, Nat.mod_mul]

theorem Memory.readLE_writeLE_outside {m : Memory} (h : m.wf = true) {a n b j : Nat} (hb : b + j ≤ a ∨ a + n ≤ b)
    (v : Word) : (m.writeLE a n v).readLE b j = m.readLE b j :=
  Memory.readLE_congr fun _ _ => Memory.read_writeLE_outside h (by omega) v

/-! ### The number of registers (R30) -/

theorem exec_regs_length {i : Instr} {s t : State} (h : exec i s = .next t) : t.regs.length = s.regs.length := by
  obtain ⟨w, m, hw⟩ := exec_instrWrites h
  rw [hw.regs, State.applyReg_regs_length]

end Sys2Proof.Machine

open Sys2Proof Sys2Proof.Machine

/-- Settles O15, by induction on the width: the sum over `List.range` ends in the byte of the highest address. -/
theorem memoryReadsLittleEndian : Obligations.MemoryReadsLittleEndian := by
  intro m a n
  induction n with
  | zero => rfl
  | succ n ih => rw [Memory.readLE_succ_last, ih, List.sum_range_succ, Nat.mul_comm]

/-- Settles O16: byte by byte, each byte of the range holds its own bits of the value. -/
theorem loadReadsStoredBytes : Obligations.LoadReadsStoredBytes :=
  fun _ _ _ _ _ v hwf _ hkj => Memory.readLE_writeLE_inside hwf hkj v

/-- Settles O17: every byte of the read lies outside the range written. -/
theorem storeLeavesOtherBytes : Obligations.StoreLeavesOtherBytes :=
  fun _ _ _ _ _ v hwf hb => Memory.readLE_writeLE_outside hwf hb v

/-- Settles O38: an instruction settles a record or an error, and neither touches the store or adds a register. -/
theorem noInstructionChangesProgram : Obligations.NoInstructionChangesProgram :=
  fun _ _ _ h => ⟨exec_sameStore h, exec_regs_length h⟩
end

section
/-! The records of instructions (30_encoding.md R110 to R114): which DIRs have an instruction, and that an instruction's
DIR is the only one that decodes to it. -/

namespace Sys2Proof

/-! ### The 96 bits of a record (R110) -/

theorem packDir_unpackDir (w : Dir) : packDir (unpackDir w) = w := by
  apply BitVec.eq_of_toNat_eq
  have hw := w.isLt
  rw [packDir_toNat]
  simp only [unpackDir, BitVec.ofInt_toInt, BitVec.extractLsb'_toNat, Nat.shiftRight_eq_div_pow]
  omega

/-! ### The rows of the table (R101, R111 to R113) -/

/-- The record of an instruction a shape builds has the row's opcode id and the given operands in the fields of the
shape's format, and 0 in the other fields. -/
def Shape.FieldsFit (opc : BitVec 8) : Shape → Prop
  | .rdRs1Rs2 mk => ∀ rd rs1 rs2, instrFields (mk rd rs1 rs2) = ⟨opc, rd, rs1, rs2, 0⟩
  | .rdRs1Imm mk | .load mk => ∀ rd rs1 imm, instrFields (mk rd rs1 imm) = ⟨opc, rd, rs1, 0, imm⟩
  | .rdImm mk => ∀ rd imm, instrFields (mk rd imm) = ⟨opc, rd, 0, 0, imm⟩
  | .rs1Rs2Imm mk => ∀ rs1 rs2 imm, instrFields (mk rs1 rs2 imm) = ⟨opc, 0, rs1, rs2, imm⟩
  | .store mk => ∀ rs2 rs1 imm, instrFields (mk rs2 rs1 imm) = ⟨opc, 0, rs1, rs2, imm⟩
  | .rdOnly mk => ∀ rd, instrFields (mk rd) = ⟨opc, rd, 0, 0, 0⟩
  | .rdRs1 mk => ∀ rd rs1, instrFields (mk rd rs1) = ⟨opc, rd, rs1, 0, 0⟩

theorem opTable_fieldsFit : ∀ row ∈ opTable, row.shape.FieldsFit row.opc := by
  simp only [opTable, rTypeRows, iTypeRows, upperAndJumpRows, bTypeRows, loadStoreRows, quantumRows, List.cons_append,
    List.nil_append, List.forall_mem_cons, Shape.FieldsFit, instrFields, List.not_mem_nil, false_implies, implies_true,
    and_self]

/-- Every field that a shape's format does not set is 0 (R111, R114). -/
def Shape.UnsetZero (f : DirFields) : Shape → Prop
  | .rdRs1Rs2 _ => f.imm = 0
  | .rdRs1Imm _ | .load _ => f.rs2 = 0
  | .rdImm _ => f.rs1 = 0 ∧ f.rs2 = 0
  | .rs1Rs2Imm _ | .store _ => f.rd = 0
  | .rdOnly _ => f.rs1 = 0 ∧ f.rs2 = 0 ∧ f.imm = 0
  | .rdRs1 _ => f.rs2 = 0 ∧ f.imm = 0

/-- The clauses of `WellFormedFields` on unset fields, which go by the opcode id, say of each row what its shape says. -/
theorem opTable_unsetZero (f : DirFields) : ∀ row ∈ opTable, row.shape.UnsetZero f ↔
    (row.opc.toNat ≤ 0x0A ∨ row.opc.toNat = 0x53 → f.imm = 0) ∧
      ((0x10 ≤ row.opc.toNat ∧ row.opc.toNat ≤ 0x18) ∨ row.opc.toNat = 0x29 ∨
        (0x40 ≤ row.opc.toNat ∧ row.opc.toNat ≤ 0x45) ∨ row.opc.toNat = 0x51 → f.rs2.toNat = 0) ∧
      (row.opc.toNat = 0x20 ∨ row.opc.toNat = 0x21 ∨ row.opc.toNat = 0x28 → f.rs1.toNat = 0 ∧ f.rs2.toNat = 0) ∧
      ((0x30 ≤ row.opc.toNat ∧ row.opc.toNat ≤ 0x35) ∨ (0x48 ≤ row.opc.toNat ∧ row.opc.toNat ≤ 0x4A) →
        f.rd.toNat = 0) ∧
      (row.opc.toNat = 0x50 → f.rs1.toNat = 0 ∧ f.rs2.toNat = 0 ∧ f.imm = 0) ∧
      (row.opc.toNat = 0x52 → f.rs2.toNat = 0 ∧ f.imm = 0) := by
  have toNat_zero (r : RegIdx) : r.toNat = 0 ↔ r = 0 := BitVec.toNat_inj (y := 0)
  simp [opTable, rTypeRows, iTypeRows, upperAndJumpRows, bTypeRows, loadStoreRows, quantumRows, Shape.UnsetZero,
    toNat_zero]

theorem rowOfOpc_eq_none_iff (c : BitVec 8) : rowOfOpc c = none ↔ Machine.ReservedOpc c.toNat := by
  have h : ∀ c : BitVec 8, (rowOfOpc c).isNone = decide (Machine.ReservedOpc c.toNat) := by decide
  rw [← Option.isNone_iff_eq_none, h c, decide_eq_true_iff]

theorem rowOfOpc_eq_some {c : BitVec 8} {row : OpRow} (h : rowOfOpc c = some row) : row ∈ opTable ∧ row.opc = c :=
  ⟨List.mem_of_find?_eq_some h, by simpa using List.find?_some h⟩

/-! ### The instruction of a record's fields (R101, R111, R114) -/

/-- The instruction a shape builds from the fields its format sets. -/
def Shape.build (f : DirFields) : Shape → Instr
  | .rdRs1Rs2 mk => mk f.rd f.rs1 f.rs2
  | .rdRs1Imm mk | .load mk => mk f.rd f.rs1 f.imm
  | .rdImm mk => mk f.rd f.imm
  | .rs1Rs2Imm mk => mk f.rs1 f.rs2 f.imm
  | .store mk => mk f.rs2 f.rs1 f.imm
  | .rdOnly mk => mk f.rd
  | .rdRs1 mk => mk f.rd f.rs1

theorem shapeOfFields_eq_some_iff (sh : Shape) (f : DirFields) (i : Instr) :
    shapeOfFields sh f = some i ↔ sh.UnsetZero f ∧ sh.build f = i := by
  cases sh <;> exact Option.ite_none_right_eq_some.trans (and_congr_right' Option.some_inj)

theorem Shape.instrFields_build {sh : Shape} {f : DirFields} (hsh : sh.FieldsFit f.opc) (hz : sh.UnsetZero f) :
    instrFields (sh.build f) = f := by
  obtain ⟨opc, rd, rs1, rs2, imm⟩ := f
  cases sh <;> simp_all [Shape.UnsetZero, Shape.FieldsFit, Shape.build]

/-- The operands a format has are in range exactly if all fields are: an unset field is 0, which is a register and
an immediate for all parameters in range. -/
theorem Shape.wellFormed_build {p : Params} (hp : p.InRange) {sh : Shape} {f : DirFields} (hsh : sh.OperandsFit)
    (hz : sh.UnsetZero f) : WellFormed p (sh.build f) = true ↔
      f.rd.toNat < p.nreg ∧ f.rs1.toNat < p.nreg ∧ f.rs2.toNat < p.nreg ∧ p.immMin ≤ f.imm ∧ f.imm ≤ p.immMax := by
  have h0 : 0 < p.nreg ∧ p.immMin ≤ 0 ∧ 0 ≤ p.immMax := by
    obtain ⟨hn, -, ⟨-, hlo⟩, hhi, -⟩ := hp
    omega
  clear hp
  cases sh <;> simp_all [Shape.UnsetZero, Shape.OperandsFit, Shape.build, WellFormed, registerInRange, immediateInRange,
    and_assoc, and_comm, and_left_comm]

/-! ### What the decoder answers for a DIR (R113, R114) -/

theorem decodeDir_eq_reserved_iff {p : Params} {w : Dir} {c : BitVec 8} :
    decodeDir p w = .error (.reservedOpcode c) ↔ rowOfOpc (unpackDir w).opc = none ∧ (unpackDir w).opc = c := by
  unfold decodeDir
  split
  · simp_all
  · split
    · simp_all
    · split <;> simp_all

theorem decodeDir_eq_ok_iff {p : Params} {w : Dir} {i : Instr} :
    decodeDir p w = .ok i ↔ ∃ row, rowOfOpc (unpackDir w).opc = some row ∧ row.shape.UnsetZero (unpackDir w) ∧
      row.shape.build (unpackDir w) = i ∧ WellFormed p i = true := by
  constructor
  · intro h
    unfold decodeDir at h
    split at h
    · cases h
    · next row hrow =>
      split at h
      · cases h
      · next j hj =>
        split at h
        · next hwf =>
          cases h
          obtain ⟨hz, hbuild⟩ := (shapeOfFields_eq_some_iff _ _ _).1 hj
          exact ⟨row, hrow, hz, hbuild, hwf⟩
        · cases h
  · rintro ⟨row, hrow, hz, hbuild, hwf⟩
    simp [decodeDir, hrow, (shapeOfFields_eq_some_iff _ _ _).2 ⟨hz, hbuild⟩, hwf]

theorem encode_of_decodeDir {p : Params} {w : Dir} {i : Instr} (h : decodeDir p w = .ok i) : encode i = w := by
  obtain ⟨row, hrow, hz, rfl, -⟩ := decodeDir_eq_ok_iff.1 h
  obtain ⟨hmem, hopc⟩ := rowOfOpc_eq_some hrow
  rw [encode, Shape.instrFields_build (hopc ▸ opTable_fieldsFit row hmem) hz, packDir_unpackDir]

/-- Exactly the well-formed DIRs decode. -/
theorem decodeDir_ok_iff_wellFormedDir {p : Params} (hp : p.InRange) (w : Dir) :
    (∃ i, decodeDir p w = .ok i) ↔ Machine.WellFormedDir p w := by
  simp only [decodeDir_eq_ok_iff]
  change _ ↔ Machine.WellFormedFields p (unpackDir w).opc.toNat (unpackDir w).rd.toNat (unpackDir w).rs1.toNat
    (unpackDir w).rs2.toNat (unpackDir w).imm
  generalize unpackDir w = f
  unfold Machine.WellFormedFields
  cases hrow : rowOfOpc f.opc with
  | none => simp [(rowOfOpc_eq_none_iff f.opc).1 hrow]
  | some row =>
    obtain ⟨hmem, hopc⟩ := rowOfOpc_eq_some hrow
    have hnot : ¬Machine.ReservedOpc f.opc.toNat := by rw [← rowOfOpc_eq_none_iff, hrow]; exact Option.some_ne_none row
    have hunset := opTable_unsetZero f row hmem
    rw [hopc] at hunset
    constructor
    · rintro ⟨i, _, ⟨⟩, hz, rfl, hwf⟩
      obtain ⟨hrd, hrs1, hrs2, hlo, hhi⟩ := (Shape.wellFormed_build hp (opTable_operandsFit row hmem) hz).1 hwf
      exact ⟨hnot, hrd, hrs1, hrs2, hlo, hhi, hunset.1 hz⟩
    · rintro ⟨-, hrd, hrs1, hrs2, hlo, hhi, hfields⟩
      have hz := hunset.2 hfields
      exact ⟨_, row, rfl, hz, rfl,
        (Shape.wellFormed_build hp (opTable_operandsFit row hmem) hz).2 ⟨hrd, hrs1, hrs2, hlo, hhi⟩⟩

/-- A DIR that is ill formed, though its opcode is one of the table's, is rejected as such. -/
theorem decodeDir_eq_illFormed {p : Params} (hp : p.InRange) {w : Dir}
    (hopc : ¬Machine.ReservedOpc (unpackDir w).opc.toNat) (hw : ¬Machine.WellFormedDir p w) :
    decodeDir p w = .error .illFormed := by
  cases h : decodeDir p w with
  | ok i => exact absurd ((decodeDir_ok_iff_wellFormedDir hp w).1 ⟨i, h⟩) hw
  | error why =>
    cases why with
    | reservedOpcode c => exact absurd ((rowOfOpc_eq_none_iff _).1 (decodeDir_eq_reserved_iff.1 h).1) hopc
    | illFormed => rfl

/-- A turn of a run runs the record at its pc. -/
theorem Machine.step_of_record {s : Machine.State} {rec : Record} (hrun : s.status = .running)
    (hrec : s.program[s.pc.toNat]? = some rec) : Machine.step s = Machine.runRecord rec (s.serve .run) := by
  rw [Machine.step_running hrun, Machine.runTurn, hrec]

end Sys2Proof

open Sys2Proof Sys2Proof.Machine

/-- Settles O1: packing loses nothing of the fields, and the row of the opcode id rebuilds the instruction. -/
theorem dirOfInstrDecodesBack : Obligations.DirOfInstrDecodesBack :=
  fun _ _ hp h => decodeDir_encode hp h

/-- Settles O2: the decoder checks well-formedness last, and the row it used builds an instruction with the DIR's fields. -/
theorem decodedDirIsExact : Obligations.DecodedDirIsExact := by
  intro p w i h
  obtain ⟨-, -, -, -, hwf⟩ := decodeDir_eq_ok_iff.1 h
  exact ⟨hwf, encode_of_decodeDir h⟩

/-- Settles O3: the reserved ids are those without a row in the table. -/
theorem reservedOpcodesFail : Obligations.ReservedOpcodesFail := by
  have hreserved (p : Params) (w : Dir) : ReservedOpc (w.extractLsb' 0 8).toNat ↔
      decodeDir p w = .error (.reservedOpcode (w.extractLsb' 0 8)) := by
    rw [decodeDir_eq_reserved_iff, ← rowOfOpc_eq_none_iff]
    exact (and_iff_left rfl).symm
  refine ⟨hreserved, fun i h => ?_, fun s rec hrun hserved hrec h => ?_⟩
  · obtain ⟨row, hrow, -⟩ := encode_opcodeField i
    rw [← rowOfOpc_eq_none_iff] at h
    exact Option.some_ne_none row (hrow.symm.trans h)
  · have hserve : s.serve .run = s := by rw [State.serve, ← hserved]
    refine ⟨s.takeError (.decode (.unknownOpcode [])), [], ?_, State.takeError_failedBy hserved _, s.takeError_port _⟩
    rw [step_of_record hrun hrec, hserve, runRecord, (hreserved s.cfg rec.dir).1 h]

/-- Settles O4: the row of a DIR's opcode id asks of its fields what `WellFormedDir` says. -/
theorem illFormedDirRefused : Obligations.IllFormedDirRefused := by
  refine ⟨fun p w hp => decodeDir_ok_iff_wellFormedDir hp w, fun p line i hp h => ?_,
    fun s rec hp hrun hrec hopc hw => ?_⟩
  · exact (decodeDir_ok_iff_wellFormedDir hp _).1 ⟨i, decodeDir_encode hp (decodeLine_wellFormed h)⟩
  · have hill := decodeDir_eq_illFormed hp hopc hw
    refine ⟨hill, ?_⟩
    rw [step_of_record hrun hrec, runRecord, State.serve_cfg, hill]

/-- Settles O5: the decoder evaluated on the five records. -/
theorem listedRecordsDecode : Obligations.ListedRecordsDecode :=
  ⟨by decide, by decide, by decide, by decide, by decide⟩
end

section
/-! Register and immediate tokens (30_encoding.md R94 to R96): what a run of decimal digits is worth, with and without
leading zeros, and which tokens are none. -/

namespace Sys2Proof

/-! ### Decimal digits (R94, R95) -/

theorem parseNat_eq_some_iff {ds : List Char} {n : Nat} :
    parseNat ds = some n ↔ ds ≠ [] ∧ ds.all isDigit = true ∧ digitsValue ds = n := by
  unfold parseNat
  split <;> simp_all

theorem isDigit_eq_false_iff {c : Char} : isDigit c = false ↔ c.toNat < 48 ∨ 57 < c.toNat := by
  rw [isDigit, decide_eq_false_iff_not]
  omega

theorem parseNat_eq_none {ds : List Char} (h : ds = [] ∨ ∃ c ∈ ds, c.toNat < 48 ∨ 57 < c.toNat) :
    parseNat ds = none := by
  have hnot : (!ds.isEmpty && ds.all isDigit) = false := by
    rcases h with rfl | ⟨c, hc, hdigit⟩
    · rfl
    · rw [List.all_eq_false.2 ⟨c, hc, by simp [isDigit_eq_false_iff.2 hdigit]⟩, Bool.and_false]
  rw [parseNat, hnot]
  rfl

/-- A leading zero does not change the value. -/
theorem digitsValue_zero_cons (ds : List Char) : digitsValue ('0' :: ds) = digitsValue ds := rfl

theorem parseNat_zeros {ds : List Char} {n : Nat} (h : parseNat ds = some n) (zeros : Nat) :
    parseNat (List.replicate zeros '0' ++ ds) = some n := by
  induction zeros with
  | zero => exact h
  | succ zeros ih =>
    obtain ⟨-, hall, hval⟩ := parseNat_eq_some_iff.1 ih
    rw [List.replicate_succ, List.cons_append, parseNat_eq_some_iff, digitsValue_zero_cons]
    exact ⟨List.cons_ne_nil _ _, by rw [List.all_cons, hall]; rfl, hval⟩

theorem parseNat_zeros_printNat (zeros n : Nat) : parseNat (List.replicate zeros '0' ++ printNat n) = some n :=
  parseNat_zeros (parseNat_printNat n) zeros

/-! ### Register tokens (R94) -/

theorem parseRegister_digits {p : Params} {ds : List Char} {n : Nat} (h : parseNat ds = some n) (hn : n < p.nreg) :
    parseRegister p ('x' :: ds) = .ok (BitVec.ofNat 8 n) := by
  simp [parseRegister, h, hn]

theorem parseRegister_digits_outOfRange {p : Params} {ds : List Char} {n : Nat} (h : parseNat ds = some n)
    (hn : p.nreg ≤ n) : parseRegister p ('x' :: ds) = .error (.registerOutOfRange ('x' :: ds)) := by
  simp [parseRegister, h, hn]

theorem parseRegister_other {p : Params} {tok : List Char} (h : ∀ ds, tok = 'x' :: ds → parseNat ds = none) :
    parseRegister p tok = .error (.registerOutOfRange tok) := by
  unfold parseRegister
  split
  · next ds => rw [h ds rfl]
  · rfl

/-! ### Immediate tokens (R95, R96) -/

theorem parseInt_minus (ds : List Char) : parseInt ('-' :: ds) = (parseNat ds).map fun n => -(n : Int) := rfl

theorem parseInt_of_head_ne {ds : List Char} (h : ds.head? ≠ some '-') :
    parseInt ds = (parseNat ds).map fun n => (n : Int) := by
  unfold parseInt
  split
  · exact absurd rfl h
  · rfl

/-- A run of digits has no `-` in front. -/
theorem head_ne_minus_of_parseNat {ds : List Char} {n : Nat} (h : parseNat ds = some n) : ds.head? ≠ some '-' := by
  obtain ⟨-, hall, -⟩ := parseNat_eq_some_iff.1 h
  intro hhead
  exact absurd (List.all_eq_true.1 hall '-' (List.mem_of_mem_head? hhead)) (by decide)

theorem parseInt_digits {ds : List Char} {n : Nat} (h : parseNat ds = some n) : parseInt ds = some (n : Int) := by
  rw [parseInt_of_head_ne (head_ne_minus_of_parseNat h), h]
  rfl

theorem parseInt_minus_digits {ds : List Char} {n : Nat} (h : parseNat ds = some n) :
    parseInt ('-' :: ds) = some (-(n : Int)) := by
  rw [parseInt_minus, h]
  rfl

theorem parseImmediate_of_parseInt {p : Params} {tok : List Char} {z : Int} (h : parseInt tok = some z) :
    parseImmediate p tok =
      if p.immMin ≤ z ∧ z ≤ p.immMax then .ok z else .error (.parseError (.immediateOutOfRange z)) := by
  simp [parseImmediate, h, immediateInRange]

theorem parseImmediate_of_parseInt_none {p : Params} {tok : List Char} (h : parseInt tok = none) :
    parseImmediate p tok = .error (.parseError (.badImmediate tok)) := by
  simp [parseImmediate, h]

end Sys2Proof

open Sys2Proof Sys2Proof.Machine

/-- Settles O11: leading zeros leave a printed number's value, and any other token holds no run of digits. -/
theorem registerTokens : Obligations.RegisterTokens :=
  fun _ _ => ⟨fun zeros n hn => parseRegister_digits (parseNat_zeros_printNat zeros n) hn,
    fun zeros n hn => parseRegister_digits_outOfRange (parseNat_zeros_printNat zeros n) hn,
    fun _ h => parseRegister_other fun ds htok => parseNat_eq_none (h ds htok)⟩

/-- Settles O12: as for registers, with the sign in front. -/
theorem immediateTokens : Obligations.ImmediateTokens := by
  refine fun p => ⟨fun zeros n => parseImmediate_of_parseInt (parseInt_digits (parseNat_zeros_printNat zeros n)),
    fun zeros n => parseImmediate_of_parseInt (parseInt_minus_digits (parseNat_zeros_printNat zeros n)),
    fun tok ds htok hds => parseImmediate_of_parseInt_none ?_⟩
  have hnone := parseNat_eq_none hds
  rcases htok with ⟨rfl, hhead⟩ | rfl
  · rw [parseInt_of_head_ne hhead, hnone]
    rfl
  · rw [parseInt_minus, hnone]
    rfl
end

section
/-! The decoder of one line (30_encoding.md R90 to R104): blank lines and comments, empty comma fields, the mnemonic and
the number of operands, in the order of R99. -/

namespace Sys2Proof

/-! ### Empty comma fields (R92) -/

/-- Only whitespace stands before the end of the text or its first comma: after a comma, the text has an empty field. -/
def opensEmpty : List Char → Bool
  | [] => true
  | c :: cs => if isBlank c then opensEmpty cs else c == ','

/-- A comma of a text is its first character or one of the rest. -/
theorem exists_comma_cons {c : Char} {cs : List Char} (P : List Char → List Char → Prop) :
    (∃ a d, c :: cs = a ++ ',' :: d ∧ P a d) ↔
      (c = ',' ∧ P [] cs) ∨ ∃ a d, cs = a ++ ',' :: d ∧ P (c :: a) d := by
  constructor
  · rintro ⟨_ | ⟨x, a⟩, d, h, hp⟩
    · cases h; exact .inl ⟨rfl, hp⟩
    · cases h; exact .inr ⟨a, d, rfl, hp⟩
  · rintro (⟨rfl, hp⟩ | ⟨a, d, rfl, hp⟩)
    · exact ⟨[], cs, rfl, hp⟩
    · exact ⟨c :: a, d, rfl, hp⟩

theorem opensEmpty_iff (l : List Char) : opensEmpty l = true ↔
    l.all isBlank = true ∨ ∃ a c, l = a ++ ',' :: c ∧ a.all isBlank = true := by
  induction l with
  | nil => simp [opensEmpty]
  | cons c cs ih =>
    rw [exists_comma_cons fun a _ => a.all isBlank = true]
    by_cases hc : isBlank c = true
    · have hne : c ≠ ',' := by rintro rfl; exact absurd hc (by decide)
      simpa [opensEmpty, hc, hne] using ih
    · simp [opensEmpty, hc]

theorem commasOk_true (l : List Char) : commasOk true l = (!opensEmpty l && commasOk false l) := by
  induction l with
  | nil => rfl
  | cons c cs ih =>
    by_cases hc : isBlank c = true
    · simp [commasOk, opensEmpty, hc, ih]
    · by_cases hcomma : c = ','
      · subst hcomma; rfl
      · simp [commasOk, opensEmpty, hc, hcomma]

theorem commasOk_false_cons {c : Char} (hc : c ≠ ',') (cs : List Char) :
    commasOk false (c :: cs) = commasOk false cs := by
  simp [commasOk, hc]

theorem commasOk_false_comma (cs : List Char) : commasOk false (',' :: cs) = commasOk true cs := rfl

theorem commasOk_false_iff (l : List Char) :
    commasOk false l = false ↔ ∃ a c, l = a ++ ',' :: c ∧ opensEmpty c = true := by
  induction l with
  | nil => simp [commasOk]
  | cons c cs ih =>
    rw [exists_comma_cons fun _ c => opensEmpty c = true, ← ih]
    by_cases hc : c = ','
    · subst hc
      rw [commasOk_false_comma, commasOk_true, Bool.and_eq_false_iff]
      simp
    · simp [commasOk_false_cons hc, hc]

theorem commasOk_blank {line : List Char} (h : line.all isBlank = true) : commasOk true line = false := by
  rw [commasOk_true, (opensEmpty_iff line).2 (.inl h)]
  rfl

theorem commasOk_eq_false_iff {line : List Char} (h : line.all isBlank = false) :
    commasOk true line = false ↔ Machine.EmptyCommaField line := by
  rw [commasOk_true, Bool.and_eq_false_iff, Bool.not_eq_false', opensEmpty_iff, commasOk_false_iff]
  constructor
  · rintro ((hblank | ⟨a, c, hline, ha⟩) | ⟨a, c, hline, hc⟩)
    · rw [hblank] at h; cases h
    · exact .inr ⟨a, c, hline, .inl ha⟩
    · rcases (opensEmpty_iff c).1 hc with hc | ⟨b, d, rfl, hb⟩
      · exact .inr ⟨a, c, hline, .inr hc⟩
      · exact .inl ⟨a, b, d, hline, hb⟩
  · rintro (⟨a, b, c, hline, hb⟩ | ⟨a, c, hline, ha | hc⟩)
    · exact .inr ⟨a, _, hline, (opensEmpty_iff _).2 (.inr ⟨b, c, rfl, hb⟩)⟩
    · exact .inl (.inr ⟨a, c, hline, ha⟩)
    · exact .inr ⟨a, c, hline, (opensEmpty_iff c).2 (.inl hc)⟩

theorem not_emptyCommaField_of_blank {line : List Char} (h : line.all isBlank = true) :
    ¬Machine.EmptyCommaField line := by
  have hcomma : ',' ∉ line := fun hmem => absurd (List.all_eq_true.1 h ',' hmem) (by decide)
  rintro (⟨a, b, c, rfl, -⟩ | ⟨a, c, rfl, -⟩) <;> simp at hcomma

/-! ### Tokens (R92) -/

theorem tokensFrom_ne_nil {cur : List Char} (h : cur ≠ []) (l : List Char) : tokensFrom cur l ≠ [] := by
  induction l generalizing cur with
  | nil => simp [tokensFrom, h]
  | cons c cs ih =>
    unfold tokensFrom
    split
    · simp [h]
    · exact ih (by simp)

/-- Where the commas are as R92 asks, there is a token. -/
theorem tokens_ne_nil {line : List Char} (h : commasOk true line = true) : tokens line ≠ [] := by
  unfold tokens
  induction line with
  | nil => cases h
  | cons c cs ih =>
    by_cases hblank : isBlank c = true
    · have hcs : commasOk true cs = true := by simpa [commasOk, hblank] using h
      simpa [tokensFrom, isSeparator, hblank] using ih hcs
    · have hcomma : c ≠ ',' := by rintro rfl; cases h
      simpa [tokensFrom, isSeparator, hblank, hcomma] using tokensFrom_ne_nil (List.cons_ne_nil c []) cs

/-! ### Blank lines and comments (R91) -/

theorem decodeLine_blank {p : Params} {line : List Char} (h : line.all isBlank = true) :
    decodeLine p line = .ignored := by
  simp only [decodeLine, h, Bool.true_or, if_true]

theorem decodeLine_comment (p : Params) (rest : List Char) : decodeLine p ('#' :: rest) = .ignored := by
  simp [decodeLine]

theorem decodeLine_indentedComment (p : Params) {blanks : List Char} (hne : blanks ≠ [])
    (h : blanks.all isBlank = true) (rest : List Char) :
    decodeLine p (blanks ++ '#' :: rest) = .error (.parseError .indentedComment) := by
  have hhash : isBlank '#' = false := rfl
  have hhead : ((blanks ++ '#' :: rest).head? == some '#') = false := by
    cases blanks with
    | nil => exact absurd rfl hne
    | cons b bs =>
      refine beq_eq_false_iff_ne.2 ?_
      rintro ⟨⟩
      cases h
  have hdrop : (blanks ++ '#' :: rest).dropWhile isBlank = '#' :: rest := by
    rw [List.dropWhile_append_of_pos (List.all_eq_true.1 h), List.dropWhile_cons_of_neg (by simp [hhash])]
  have hblank : (blanks ++ '#' :: rest).all isBlank = false := by simp [hhash]
  simp only [decodeLine, hblank, hhead, hdrop, Bool.or_self, Bool.false_eq_true, if_false, List.head?_cons, BEq.rfl,
    if_true]

/-! ### Lines with tokens (R93, R98, R99) -/

/-- A line is no comment (R91), has no empty comma field (R92), and its tokens are a name and operands. -/
structure Tokenized (line name : List Char) (operands : List (List Char)) : Prop where
  notComment : line.head? ≠ some '#'
  notIndented : (line.dropWhile isBlank).head? ≠ some '#'
  commas : commasOk true line = true
  tokens_eq : tokens line = name :: operands

/-- The instruction of a line's tokens: the row of the mnemonic, then the operands of its shape (R99). -/
def instrOfTokens (p : Params) (name : List Char) (operands : List (List Char)) : Except DecodeError Instr :=
  match rowOfName name with
  | none => .error (.unknownOpcode name)
  | some row => parseOperands p row.shape operands

/-- What the decoder answers for a line whose tokens have been read. -/
def LineResult.ofExcept : Except DecodeError Instr → LineResult
  | .ok i => .instr i
  | .error e => .error e

theorem decodeLine_tokenized (p : Params) {line name : List Char} {operands : List (List Char)}
    (h : Tokenized line name operands) : decodeLine p line = .ofExcept (instrOfTokens p name operands) := by
  obtain ⟨hcomment, hindented, hcommas, htokens⟩ := h
  have hblank : line.all isBlank = false := by
    rw [Bool.eq_false_iff]
    intro hblank
    rw [commasOk_blank hblank] at hcommas
    cases hcommas
  have hcomment' : (line.head? == some '#') = false := beq_eq_false_iff_ne.2 hcomment
  simp only [decodeLine, hblank, hcomment', hindented, hcommas, htokens, instrOfTokens, Bool.or_self, Bool.false_eq_true,
    beq_iff_eq, Bool.not_true, if_false]
  cases rowOfName name with
  | none => rfl
  | some row => cases hops : parseOperands p row.shape operands <;> simp [LineResult.ofExcept, hops]

theorem decodeLine_emptyField (p : Params) {line : List Char} (hcomment : line.head? ≠ some '#')
    (hindented : (line.dropWhile isBlank).head? ≠ some '#') (hblank : line.all isBlank = false)
    (h : commasOk true line = false) : decodeLine p line = .error (.parseError .emptyField) := by
  have hcomment' : (line.head? == some '#') = false := beq_eq_false_iff_ne.2 hcomment
  simp only [decodeLine, hblank, hcomment', hindented, h, Bool.or_self, Bool.false_eq_true, beq_iff_eq, Bool.not_false,
    if_false, if_true]

theorem parseOperands_count (p : Params) (sh : Shape) {toks : List (List Char)} (h : toks.length ≠ shapeArity sh) :
    parseOperands p sh toks = .error (.parseError (.operandCount (shapeArity sh))) := by
  unfold parseOperands
  split
  case h_9 => rfl
  all_goals exact absurd rfl h

theorem rowOfName_eq_none {name : List Char} (h : name ∉ opTable.map OpRow.name) : rowOfName name = none := by
  rw [rowOfName, List.find?_eq_none]
  intro row hrow hname
  exact h (List.mem_map.2 ⟨row, hrow, beq_iff_eq.1 hname⟩)

/-! ### Operands give no `emptyField` (R99) -/

/-- The line's error is not that of an empty comma field. -/
def NotEmptyField {α : Type} (x : Except DecodeError α) : Prop := x ≠ .error (.parseError .emptyField)

theorem NotEmptyField.ok {α : Type} (a : α) : NotEmptyField (Except.ok a) := nofun

theorem NotEmptyField.bind {α β : Type} {x : Except DecodeError α} {f : α → Except DecodeError β}
    (hx : NotEmptyField x) (hf : ∀ a, NotEmptyField (f a)) : NotEmptyField (x >>= f) := by
  cases x with
  | ok a => exact hf a
  | error e => rintro ⟨⟩; exact hx rfl

theorem parseRegister_notEmptyField (p : Params) (tok : List Char) : NotEmptyField (parseRegister p tok) := by
  unfold parseRegister NotEmptyField
  repeat' split
  all_goals simp

theorem parseImmediate_notEmptyField (p : Params) (tok : List Char) : NotEmptyField (parseImmediate p tok) := by
  unfold parseImmediate NotEmptyField
  repeat' split
  all_goals simp

theorem parseMemoryOperand_notEmptyField (p : Params) (tok : List Char) :
    NotEmptyField (parseMemoryOperand p tok) := by
  unfold parseMemoryOperand
  split
  · simp [NotEmptyField]
  · exact (parseImmediate_notEmptyField p _).bind fun _ => (parseRegister_notEmptyField p _).bind fun _ => .ok _

theorem parseOperands_notEmptyField (p : Params) (sh : Shape) (toks : List (List Char)) :
    NotEmptyField (parseOperands p sh toks) := by
  have reg := parseRegister_notEmptyField p
  have imm := parseImmediate_notEmptyField p
  have mem := parseMemoryOperand_notEmptyField p
  unfold parseOperands
  split
  case h_1 a b c => exact (reg a).bind fun _ => (reg b).bind fun _ => (reg c).bind fun _ => .ok _
  case h_2 a b c | h_4 a b c => exact (reg a).bind fun _ => (reg b).bind fun _ => (imm c).bind fun _ => .ok _
  case h_3 a b => exact (reg a).bind fun _ => (imm b).bind fun _ => .ok _
  case h_5 a b | h_6 a b => exact (reg a).bind fun _ => (mem b).bind fun _ => .ok _
  case h_7 a => exact (reg a).bind fun _ => .ok _
  case h_8 a b => exact (reg a).bind fun _ => (reg b).bind fun _ => .ok _
  case h_9 => simp [NotEmptyField]

theorem instrOfTokens_notEmptyField (p : Params) (name : List Char) (operands : List (List Char)) :
    NotEmptyField (instrOfTokens p name operands) := by
  unfold instrOfTokens
  split
  · simp [NotEmptyField]
  · exact parseOperands_notEmptyField p _ operands

/-- A line with tokens does not fail for an empty field. -/
theorem decodeLine_ne_emptyField (p : Params) {line : List Char} (hcomment : line.head? ≠ some '#')
    (hindented : (line.dropWhile isBlank).head? ≠ some '#') (h : commasOk true line = true) :
    decodeLine p line ≠ .error (.parseError .emptyField) := by
  obtain ⟨name, operands, htokens⟩ := List.exists_cons_of_ne_nil (tokens_ne_nil h)
  have hne := instrOfTokens_notEmptyField p name operands
  rw [decodeLine_tokenized p ⟨hcomment, hindented, h, htokens⟩]
  cases hi : instrOfTokens p name operands with
  | ok i => exact LineResult.noConfusion
  | error e => rintro ⟨⟩; exact hne hi

end Sys2Proof

open Sys2Proof Sys2Proof.Machine

/-- Settles O57: the scan of `commasOk` stops at the first empty field, and tokens give no such error. -/
theorem emptyCommaFieldFails : Obligations.EmptyCommaFieldFails := by
  intro p line hcomment hindented
  refine ⟨?_, commasOk_eq_false_iff⟩
  cases hblank : line.all isBlank with
  | true =>
    rw [decodeLine_blank hblank]
    exact iff_of_false LineResult.noConfusion (not_emptyCommaField_of_blank hblank)
  | false =>
    rw [← commasOk_eq_false_iff hblank]
    cases hcommas : commasOk true line with
    | true => exact iff_of_false (decodeLine_ne_emptyField p hcomment hindented hcommas) Bool.noConfusion
    | false => exact iff_of_true (decodeLine_emptyField p hcomment hindented hblank hcommas) rfl

/-- Settles O8: blanks and comments are looked for first, and whitespace before a `#` makes the line neither. -/
theorem blankAndCommentLines : Obligations.BlankAndCommentLines :=
  fun p _ rest h => ⟨decodeLine_blank h, decodeLine_comment p rest,
    fun hne => decodeLine_indentedComment p hne h rest⟩

/-- Settles O10: the mnemonics listed are the names of the table's rows. -/
theorem otherMnemonicsFail : Obligations.OtherMnemonicsFail := by
  intro p line m operands hcomment hindented hcommas htokens hm
  have hnone : rowOfName m = none := rowOfName_eq_none hm
  rw [decodeLine_tokenized p ⟨hcomment, hindented, hcommas, htokens⟩, instrOfTokens, hnone]
  rfl

/-- Settles O9: the row of each mnemonic has the arity of its format, and the operands are counted first. -/
theorem operandCountChecked : Obligations.OperandCountChecked := by
  intro p line name operands expected hcomment hindented hcommas htokens hname hlen
  have harity : (rowOfName name).map (fun row => shapeArity row.shape) = some expected := by
    rcases hname with ⟨rfl, hmem⟩ | ⟨rfl, hmem⟩ | ⟨rfl, rfl⟩
    · clear htokens; revert name; decide
    · clear htokens; revert name; decide
    · decide
  obtain ⟨row, hrow, rfl⟩ := Option.map_eq_some_iff.1 harity
  rw [decodeLine_tokenized p ⟨hcomment, hindented, hcommas, htokens⟩, instrOfTokens, hrow]
  exact congrArg LineResult.ofExcept (parseOperands_count p row.shape hlen)

/-- Settles O7: register and immediate tokens are checked where they are read. -/
theorem decodedLineIsWellFormed : Obligations.DecodedLineIsWellFormed :=
  fun _ _ _ _ h => decodeLine_wellFormed h
end

section
/-! The printed text of an instruction decodes back (30_encoding.md R118): printed operands are tokens that read back,
and a printed line falls into its mnemonic and its operands. -/

namespace Sys2Proof

/-! ### The characters of printed operands -/

/-- A character of a printed register or immediate. -/
def isOperandChar (c : Char) : Bool := isDigit c || c == 'x' || c == '-'

theorem isOperandChar_plain {c : Char} (h : isOperandChar c = true) : isSeparator c = false ∧ c ≠ '(' ∧ c ≠ ')' := by
  refine ⟨?_, ?_, ?_⟩
  · rw [Bool.eq_false_iff]
    intro hsep
    simp only [isSeparator, isBlank, Bool.or_eq_true, beq_iff_eq] at hsep
    rcases hsep with ((rfl | rfl) | rfl) | rfl <;> exact absurd h (by decide)
  all_goals rintro rfl; exact absurd h (by decide)

theorem printNat_operandChars (n : Nat) : (printNat n).all isOperandChar = true := by
  obtain ⟨-, hdigits⟩ := printNat_digits n
  rw [List.all_eq_true] at hdigits ⊢
  intro c hc
  simp [isOperandChar, hdigits c hc]

theorem printRegister_operandChars (r : RegIdx) : (printRegister r).all isOperandChar = true := by
  rw [printRegister, List.all_cons, printNat_operandChars]
  rfl

theorem printInt_operandChars (z : Int) : (printInt z).all isOperandChar = true := by
  unfold printInt
  split
  · rw [List.all_cons, printNat_operandChars]
    rfl
  · exact printNat_operandChars _

theorem printInt_ne_nil (z : Int) : printInt z ≠ [] := by
  unfold printInt
  split
  · exact List.cons_ne_nil _ _
  · exact (printNat_digits _).1

/-! ### Printed operands read back (R94 to R97) -/

theorem parseRegister_printRegister {p : Params} {r : RegIdx} (h : registerInRange p r = true) :
    parseRegister p (printRegister r) = .ok r := by
  rw [printRegister, parseRegister_digits (parseNat_printNat _) (of_decide_eq_true h), BitVec.ofNat_toNat,
    BitVec.setWidth_eq]

theorem parseInt_printInt (z : Int) : parseInt (printInt z) = some z := by
  unfold printInt
  split
  · rw [parseInt_minus_digits (parseNat_printNat _)]
    congr 1
    omega
  · rw [parseInt_digits (parseNat_printNat _)]
    congr 1
    omega

theorem parseImmediate_printInt {p : Params} {z : Int} (h : immediateInRange p z = true) :
    parseImmediate p (printInt z) = .ok z := by
  rw [parseImmediate_of_parseInt (parseInt_printInt z), if_pos (of_decide_eq_true h)]

theorem splitMemoryOperand_parens {offset base : List Char} (hne : offset ≠ [])
    (hoffset : offset.all isOperandChar = true) (hbase : base.all isOperandChar = true) :
    splitMemoryOperand (offset ++ '(' :: base ++ [')']) = some (offset, base) := by
  have hstop : ∀ c ∈ offset, (c != '(') = true := fun c hc =>
    bne_iff_ne.2 (isOperandChar_plain (List.all_eq_true.1 hoffset c hc)).2.1
  have hparens : (offset ++ base).all (fun c => c != '(' && c != ')') = true := by
    rw [List.all_eq_true]
    intro c hc
    have hc' : isOperandChar c = true := by
      rcases List.mem_append.1 hc with hc | hc
      · exact List.all_eq_true.1 hoffset c hc
      · exact List.all_eq_true.1 hbase c hc
    obtain ⟨-, hopen, hclose⟩ := isOperandChar_plain hc'
    simp [hopen, hclose]
  have htake : (offset ++ '(' :: base ++ [')']).takeWhile (fun c => c != '(') = offset := by
    rw [List.append_assoc, List.takeWhile_append_of_pos hstop]
    simp
  have hdrop : (offset ++ '(' :: base ++ [')']).dropWhile (fun c => c != '(') = '(' :: (base ++ [')']) := by
    rw [List.append_assoc, List.dropWhile_append_of_pos hstop]
    simp
  simp only [splitMemoryOperand, htake, hdrop, List.drop_one, List.tail_cons, List.dropLast_concat,
    List.getLast?_concat, hparens]
  simp [hne]

theorem parseMemoryOperand_print {p : Params} {r : RegIdx} {z : Int} (hr : registerInRange p r = true)
    (hz : immediateInRange p z = true) : parseMemoryOperand p (printMemoryOperand r z) = .ok (r, z) := by
  have hsplit := splitMemoryOperand_parens (printInt_ne_nil z) (printInt_operandChars z) (printRegister_operandChars r)
  rw [parseMemoryOperand, printMemoryOperand, hsplit]
  simp only [parseImmediate_printInt hz, parseRegister_printRegister hr]
  rfl

/-! ### Tokens of a printed line (R92, R118) -/

/-- One or more characters, none a separator. -/
def IsToken (w : List Char) : Prop := w ≠ [] ∧ (w.all fun c => !isSeparator c) = true

theorem isToken_iff {w : List Char} : IsToken w ↔ w ≠ [] ∧ ∀ c ∈ w, isSeparator c = false := by
  simp [IsToken]

theorem isToken_of_operandChars {w : List Char} (hne : w ≠ []) (h : w.all isOperandChar = true) : IsToken w :=
  isToken_iff.2 ⟨hne, fun c hc => (isOperandChar_plain (List.all_eq_true.1 h c hc)).1⟩

theorem printRegister_isToken (r : RegIdx) : IsToken (printRegister r) :=
  isToken_of_operandChars (List.cons_ne_nil _ _) (printRegister_operandChars r)

theorem printInt_isToken (z : Int) : IsToken (printInt z) :=
  isToken_of_operandChars (printInt_ne_nil z) (printInt_operandChars z)

theorem printMemoryOperand_isToken (r : RegIdx) (z : Int) : IsToken (printMemoryOperand r z) := by
  have hz := (printInt_isToken z).2
  have hr := (printRegister_isToken r).2
  refine ⟨by simp [printMemoryOperand], ?_⟩
  rw [printMemoryOperand, List.all_append, List.all_append, List.all_cons, hz, hr]
  rfl

theorem tokensFrom_append {w : List Char} (h : ∀ c ∈ w, isSeparator c = false) (cur rest : List Char) :
    tokensFrom cur (w ++ rest) = tokensFrom (cur ++ w) rest := by
  induction w generalizing cur with
  | nil => simp
  | cons c w ih =>
    obtain ⟨hc, hw⟩ := List.forall_mem_cons.1 h
    simp [tokensFrom, hc, ih hw]

theorem tokens_append_separator {w : List Char} (h : IsToken w) {c : Char} (hc : isSeparator c = true)
    (rest : List Char) : tokens (w ++ c :: rest) = w :: tokens rest := by
  obtain ⟨hne, hw⟩ := isToken_iff.1 h
  simp [tokens, tokensFrom_append hw, tokensFrom, hc, hne]

theorem tokens_self {w : List Char} (h : IsToken w) : tokens w = [w] := by
  obtain ⟨hne, hw⟩ := isToken_iff.1 h
  have happ := tokensFrom_append hw [] []
  rw [List.append_nil, List.nil_append] at happ
  simp [tokens, happ, tokensFrom, hne]

theorem commasOk_append {w : List Char} (h : IsToken w) (afterComma : Bool) (rest : List Char) :
    commasOk afterComma (w ++ rest) = commasOk false rest := by
  obtain ⟨hne, hw⟩ := isToken_iff.1 h
  clear h
  induction w generalizing afterComma with
  | nil => exact absurd rfl hne
  | cons c w ih =>
    obtain ⟨hc, hw⟩ := List.forall_mem_cons.1 hw
    obtain ⟨hblank, hcomma⟩ : isBlank c = false ∧ c ≠ ',' := by simpa [isSeparator] using hc
    have hstep : commasOk afterComma (c :: (w ++ rest)) = commasOk false (w ++ rest) := by
      simp [commasOk, hblank, hcomma]
    rw [List.cons_append, hstep]
    cases w with
    | nil => rfl
    | cons d w => exact ih false (List.cons_ne_nil d w) hw

theorem commaSeparated_cons (w v : List Char) (ws : List (List Char)) :
    (", ".toList).intercalate (w :: v :: ws) = w ++ ',' :: ' ' :: (", ".toList).intercalate (v :: ws) := by
  simp [List.intercalate]

theorem tokens_commaSeparated {ws : List (List Char)} (h : ∀ w ∈ ws, IsToken w) :
    tokens ((", ".toList).intercalate ws) = ws := by
  induction ws with
  | nil => rfl
  | cons w ws ih =>
    obtain ⟨hw, hws⟩ := List.forall_mem_cons.1 h
    cases ws with
    | nil => simpa [List.intercalate] using tokens_self hw
    | cons v ws =>
      have hspace (l : List Char) : tokens (' ' :: l) = tokens l := rfl
      rw [commaSeparated_cons, tokens_append_separator hw rfl, hspace, ih hws]

theorem commasOk_commaSeparated {ws : List (List Char)} (hne : ws ≠ []) (h : ∀ w ∈ ws, IsToken w)
    (afterComma : Bool) : commasOk afterComma ((", ".toList).intercalate ws) = true := by
  induction ws generalizing afterComma with
  | nil => exact absurd rfl hne
  | cons w ws ih =>
    obtain ⟨hw, hws⟩ := List.forall_mem_cons.1 h
    cases ws with
    | nil => simpa [List.intercalate, commasOk] using commasOk_append hw afterComma []
    | cons v ws =>
      have hcomma (l : List Char) : commasOk false (',' :: ' ' :: l) = commasOk true l := rfl
      rw [commaSeparated_cons, commasOk_append hw, hcomma, ih (List.cons_ne_nil v ws) hws]

theorem tokenized_printParts {name : List Char} {operands : List (List Char)} (hname : IsToken name)
    (hhash : name.head? ≠ some '#') (hne : operands ≠ []) (h : ∀ w ∈ operands, IsToken w) :
    Tokenized (printParts name operands) name operands := by
  have hhead (l : List Char) : (name ++ l).head? = name.head? := by
    rw [List.head?_append_of_ne_nil _ hname.1]
  have hdrop (l : List Char) : (name ++ l).dropWhile isBlank = name ++ l := by
    obtain ⟨hnil, hchars⟩ := isToken_iff.1 hname
    cases name with
    | nil => exact absurd rfl hnil
    | cons c w =>
      have hc : isBlank c = false := (Bool.or_eq_false_iff.1 (hchars c List.mem_cons_self)).1
      simp [hc]
  have hspace (l : List Char) : commasOk false (' ' :: l) = commasOk false l := rfl
  unfold printParts
  refine ⟨by rwa [hhead], by rwa [hdrop, hhead], ?_, ?_⟩
  · rw [commasOk_append hname, hspace, commasOk_commaSeparated hne h]
  · rw [tokens_append_separator hname rfl, tokens_commaSeparated h]

/-! ### The line of a row (R100, R101, R118) -/

theorem opTable_names : ∀ row ∈ opTable, IsToken row.name ∧ row.name.head? ≠ some '#' := by
  unfold IsToken
  decide

theorem rowOfName_eq_some {name : List Char} {row : OpRow} (h : rowOfName name = some row) :
    row ∈ opTable ∧ row.name = name :=
  ⟨List.mem_of_find?_eq_some h, by simpa using List.find?_some h⟩

/-- The shape of a mnemonic's row (R93, R101). -/
def shapeOfName (name : List Char) : Option Shape := (rowOfName name).map OpRow.shape

theorem shapeOfName_operandsFit {name : List Char} {sh : Shape} (h : shapeOfName name = some sh) :
    sh.OperandsFit := by
  obtain ⟨row, hrow, rfl⟩ := Option.map_eq_some_iff.1 h
  exact opTable_operandsFit row (rowOfName_eq_some hrow).1

theorem decodeLine_printParts {p : Params} {name : List Char} {sh : Shape} {operands : List (List Char)} {i : Instr}
    (hsh : shapeOfName name = some sh) (hne : operands ≠ []) (htokens : ∀ w ∈ operands, IsToken w)
    (h : parseOperands p sh operands = .ok i) : decodeLine p (printParts name operands) = .instr i := by
  obtain ⟨row, hrow, rfl⟩ := Option.map_eq_some_iff.1 hsh
  obtain ⟨hmem, rfl⟩ := rowOfName_eq_some hrow
  obtain ⟨hname, hhash⟩ := opTable_names row hmem
  rw [decodeLine_tokenized p (tokenized_printParts hname hhash hne htokens), instrOfTokens, hrow]
  exact congrArg LineResult.ofExcept h

/-! ### One lemma per printed format (R101, R118) -/

theorem operands_of_wellFormed {p : Params} {i : Instr} {rs : List RegIdx} {z : Option Int} (hwf : WellFormed p i = true)
    (h : i.regs = rs ∧ i.immediate = z) :
    (∀ r ∈ rs, registerInRange p r = true) ∧ ∀ v ∈ z, immediateInRange p v = true := by
  obtain ⟨rfl, rfl⟩ := h
  simpa [WellFormed, List.all_eq_true, Option.all_eq_true] using hwf

section Formats

variable {p : Params} {name : List Char} {a b c : RegIdx} {z : Int}

theorem decodeLine_printR {mk : RegIdx → RegIdx → RegIdx → Instr} (hsh : shapeOfName name = some (.rdRs1Rs2 mk))
    (h : WellFormed p (mk a b c) = true) : decodeLine p (printR name a b c) = .instr (mk a b c) := by
  obtain ⟨hregs, -⟩ := operands_of_wellFormed h (shapeOfName_operandsFit hsh a b c)
  simp only [List.forall_mem_cons] at hregs
  obtain ⟨ha, hb, hc, -⟩ := hregs
  refine decodeLine_printParts hsh (List.cons_ne_nil _ _) (by simp [printRegister_isToken]) ?_
  simp only [parseOperands, parseRegister_printRegister ha, parseRegister_printRegister hb,
    parseRegister_printRegister hc]
  rfl

theorem decodeLine_printI {mk : RegIdx → RegIdx → Int → Instr}
    (hsh : shapeOfName name = some (.rdRs1Imm mk) ∨ shapeOfName name = some (.rs1Rs2Imm mk))
    (h : WellFormed p (mk a b z) = true) : decodeLine p (printI name a b z) = .instr (mk a b z) := by
  have hfit : (mk a b z).regs = [a, b] ∧ (mk a b z).immediate = some z :=
    hsh.elim (fun hsh => shapeOfName_operandsFit hsh a b z) (fun hsh => shapeOfName_operandsFit hsh a b z)
  obtain ⟨hregs, himm⟩ := operands_of_wellFormed h hfit
  simp only [List.forall_mem_cons] at hregs
  obtain ⟨ha, hb, -⟩ := hregs
  have htokens : ∀ w ∈ [printRegister a, printRegister b, printInt z], IsToken w := by
    simp [printRegister_isToken, printInt_isToken]
  have hz := parseImmediate_printInt (himm z rfl)
  rcases hsh with hsh | hsh <;> refine decodeLine_printParts hsh (List.cons_ne_nil _ _) htokens ?_
  all_goals
    simp only [parseOperands, parseRegister_printRegister ha, parseRegister_printRegister hb, hz]
    rfl

theorem decodeLine_printU {mk : RegIdx → Int → Instr} (hsh : shapeOfName name = some (.rdImm mk))
    (h : WellFormed p (mk a z) = true) : decodeLine p (printU name a z) = .instr (mk a z) := by
  obtain ⟨hregs, himm⟩ := operands_of_wellFormed h (shapeOfName_operandsFit hsh a z)
  have ha := parseRegister_printRegister (hregs a List.mem_cons_self)
  have hz := parseImmediate_printInt (himm z rfl)
  refine decodeLine_printParts hsh (List.cons_ne_nil _ _) (by simp [printRegister_isToken, printInt_isToken]) ?_
  simp only [parseOperands, ha, hz]
  rfl

theorem decodeLine_printM {mk : RegIdx → RegIdx → Int → Instr}
    (hsh : shapeOfName name = some (.load mk) ∨ shapeOfName name = some (.store mk))
    (h : WellFormed p (mk a b z) = true) : decodeLine p (printM name a b z) = .instr (mk a b z) := by
  have hfit : (mk a b z).regs = [a, b] ∧ (mk a b z).immediate = some z :=
    hsh.elim (fun hsh => shapeOfName_operandsFit hsh a b z) (fun hsh => shapeOfName_operandsFit hsh a b z)
  obtain ⟨hregs, himm⟩ := operands_of_wellFormed h hfit
  simp only [List.forall_mem_cons] at hregs
  obtain ⟨ha, hb, -⟩ := hregs
  have htokens : ∀ w ∈ [printRegister a, printMemoryOperand b z], IsToken w := by
    simp [printRegister_isToken, printMemoryOperand_isToken]
  have hmem := parseMemoryOperand_print hb (himm z rfl)
  rcases hsh with hsh | hsh <;> refine decodeLine_printParts hsh (List.cons_ne_nil _ _) htokens ?_
  all_goals
    simp only [parseOperands, parseRegister_printRegister ha, hmem]
    rfl

theorem decodeLine_printRd {mk : RegIdx → Instr} (hsh : shapeOfName name = some (.rdOnly mk))
    (h : WellFormed p (mk a) = true) : decodeLine p (printParts name [printRegister a]) = .instr (mk a) := by
  obtain ⟨hregs, -⟩ := operands_of_wellFormed h (shapeOfName_operandsFit hsh a)
  have ha := parseRegister_printRegister (hregs a List.mem_cons_self)
  refine decodeLine_printParts hsh (List.cons_ne_nil _ _) (by simp [printRegister_isToken]) ?_
  simp only [parseOperands, ha]
  rfl

theorem decodeLine_printRdRs1 {mk : RegIdx → RegIdx → Instr} (hsh : shapeOfName name = some (.rdRs1 mk))
    (h : WellFormed p (mk a b) = true) :
    decodeLine p (printParts name [printRegister a, printRegister b]) = .instr (mk a b) := by
  obtain ⟨hregs, -⟩ := operands_of_wellFormed h (shapeOfName_operandsFit hsh a b)
  simp only [List.forall_mem_cons] at hregs
  obtain ⟨ha, hb, -⟩ := hregs
  refine decodeLine_printParts hsh (List.cons_ne_nil _ _) (by simp [printRegister_isToken]) ?_
  simp only [parseOperands, parseRegister_printRegister ha, parseRegister_printRegister hb]
  rfl

end Formats

/-- The printed text of a well-formed instruction decodes to it. -/
theorem decodeLine_printInstr {p : Params} {i : Instr} (h : WellFormed p i = true) :
    decodeLine p (printInstr i) = .instr i := by
  cases i with
  | add | sub | and | or | xor | sll | srl | sra | slt | sltu | qentangle => exact decodeLine_printR rfl h
  | addi | slli | srli | srai | andi | ori | xori | slti | sltiu | jalr | qapply =>
    exact decodeLine_printI (.inl rfl) h
  | beq | bne | blt | bge | bltu | bgeu => exact decodeLine_printI (.inr rfl) h
  | lui | auipc | jal => exact decodeLine_printU rfl h
  | lw | lh | lb | lwu | lhu | lbu => exact decodeLine_printM (.inl rfl) h
  | sw | sh | sb => exact decodeLine_printM (.inr rfl) h
  | qinit => exact decodeLine_printRd rfl h
  | qmeasure => exact decodeLine_printRdRs1 rfl h

end Sys2Proof

open Sys2Proof Sys2Proof.Machine

/-- Settles O6: by the printed format of each instruction, whose mnemonic has a row of the instruction's own shape. -/
theorem printedTextDecodesBack : Obligations.PrintedTextDecodesBack :=
  fun _ _ _ h => decodeLine_printInstr h
end

section
/-! A run in progress (40_engine.md R141 to R148): which computations have a meaning, so that a step gives a next state,
how an instruction of a run ends, and what it leaves of the port's answers. -/

namespace Sys2Proof.Machine

/-! ### Which computations have a meaning (R13, R329) -/

/-- The computation does not end as Unmodelled. -/
def Modelled {α : Type} (r : Except Trap α) : Prop := ∀ why, r ≠ .error (.unmodelled why)

theorem modelled_ok {α : Type} (a : α) : Modelled (.ok a : Except Trap α) :=
  fun _ h => by cases h

theorem modelled_raise {α : Type} (e : ErrorKind) : Modelled (.error (.raise e) : Except Trap α) :=
  fun _ h => by cases h

theorem modelled_mapError_raise {α : Type} (r : Except ErrorKind α) : Modelled (r.mapError .raise) := by
  cases r with
  | ok a => exact modelled_ok a
  | error e => exact modelled_raise e

theorem Modelled.error {α β : Type} {r : Except Trap α} (h : Modelled r) {e : Trap} (he : r = .error e) :
    Modelled (.error e : Except Trap β) := by
  intro why h'
  cases h'
  exact h why he

theorem Modelled.map {α β : Type} {r : Except Trap α} (h : Modelled r) (f : α → β) : Modelled (r.map f) := by
  cases r with
  | ok a => exact modelled_ok (f a)
  | error e => exact h.error rfl

/-- A computation that is modelled gives a next state. -/
theorem Modelled.finish {r : Except Trap Result} (h : Modelled r) (s : State) : ∃ t, s.finish r = .next t := by
  match r, h with
  | .ok res, _ => exact ⟨_, rfl⟩
  | .error (.raise e), _ => exact ⟨_, rfl⟩
  | .error (.unmodelled why), h => exact absurd rfl (h why)

theorem checkBounds_modelled (p : Params) (a : Int) (n : Nat) : Modelled (checkBounds p a n) := by
  rcases checkBounds_cases p a n with ⟨b, hb, -⟩ | herr
  · exact hb ▸ modelled_ok b
  · exact herr ▸ modelled_raise _

theorem checkTarget_modelled (s : State) (z : Int) : Modelled (checkTarget s z) := by
  rcases checkTarget_cases s z with ⟨hok, -⟩ | hhalt | herr
  · exact hok ▸ modelled_ok _
  · exact hhalt ▸ modelled_ok _
  · exact herr ▸ modelled_raise _

section Results

variable (s : State)

theorem aluResult_modelled (rd : RegIdx) {v : Except Trap Word} (h : Modelled v) : Modelled (s.aluResult rd v) := by
  unfold State.aluResult
  split
  · exact modelled_ok _
  · exact h.error rfl

theorem jumpResult_modelled (rd : RegIdx) (z : Int) : Modelled (s.jumpResult rd z) := by
  unfold State.jumpResult
  split
  · exact modelled_ok _
  · exact (checkTarget_modelled s z).error ‹_›

theorem branchResult_modelled (c : Bool) (imm : Int) : Modelled (s.branchResult c imm) := by
  unfold State.branchResult
  split
  · split
    · exact modelled_ok _
    · exact (checkTarget_modelled s _).error ‹_›
  · exact modelled_ok _

theorem loadResult_modelled (n : Nat) (ext : Nat → Word) (rd rs1 : RegIdx) (imm : Int) :
    Modelled (s.loadResult n ext rd rs1 imm) := by
  unfold State.loadResult
  split
  · exact modelled_ok _
  · exact (checkBounds_modelled s.cfg _ n).error ‹_›

theorem storeResult_modelled (n : Nat) (rs2 rs1 : RegIdx) (imm : Int) :
    Modelled (s.storeResult n rs2 rs1 imm) := by
  unfold State.storeResult
  split
  · exact modelled_ok _
  · exact (checkBounds_modelled s.cfg _ n).error ‹_›

end Results

/-! ### Under parameters that leave no form without meaning (R170, R230, R241) -/

section Forms

variable {p : Params} (h : RunsEveryForm p)
include h

theorem RunsEveryForm.shiftResult_modelled (k : ShiftKind) (v : Word) (amount : Int) :
    Modelled (shiftResult p k v amount) := by
  unfold shiftResult
  split
  · exact modelled_ok _
  · rcases h.1 with hmask | hany
    · rw [hmask]; exact modelled_ok _
    · rw [hany]; exact modelled_ok _

theorem RunsEveryForm.upperImmediate_modelled (imm : Int) : Modelled (upperImmediate p imm) := by
  unfold upperImmediate
  split
  · exact modelled_ok _
  · split
    · exact absurd ‹_› h.2.1
    · exact modelled_ok _
    · exact modelled_ok _

end Forms

theorem RunsEveryForm.jalrBase_modelled {s : State} (h : RunsEveryForm s.cfg) (rd rs1 : RegIdx) :
    Modelled (s.jalrBase rd rs1) := by
  unfold State.jalrBase
  split
  · split
    · exact absurd ‹_› h.2.2
    all_goals exact modelled_ok _
  · exact modelled_ok _

/-! ### The call of the port (R300, R301) -/

/-- `PortCall` of any quantum instruction: `draw` is what a free answer does, `answer` what a scripted one does. -/
def State.callPort (s : State) (q : QReq) (draw : Except ErrorKind Result) (answer : PortAnswer → Except Trap Result) :
    Host.Outcome State Fault Refusal :=
  match s.portScript with
  | [] => .next ({ s.sendRequest q with draws := s.draws + 1 }.settle draw)
  | a :: rest => { s.sendRequest q with portScript := rest }.finish (answer a)

theorem State.callPlain_eq_callPort (s : State) (q : QReq) :
    s.callPlain q = s.callPort q (plainDraw s q) (plainAnswer s) := rfl

theorem State.callMeasure_eq_callPort (s : State) (rd : RegIdx) (q : QReq) :
    s.callMeasure rd q = s.callPort q (measureDraw s rd q) (measureAnswer s rd) := rfl

section CallPort

variable {s : State} (q : QReq) (draw : Except ErrorKind Result) (answer : PortAnswer → Except Trap Result)

theorem State.callPort_draw (h : s.portScript = []) :
    s.callPort q draw answer =
      ({ s.sendRequest q with draws := s.draws + 1 } : State).finish (draw.mapError .raise) := by
  rw [State.callPort, h]
  cases draw <;> rfl

theorem State.callPort_answer {a : PortAnswer} {rest : List PortAnswer} (h : s.portScript = a :: rest) :
    s.callPort q draw answer = ({ s.sendRequest q with portScript := rest } : State).finish (answer a) := by
  rw [State.callPort, h]

theorem State.callPort_next (h : s.PortOnContract) (hdone : Modelled (answer .done))
    (hfail : ∀ k, Modelled (answer (.fail k))) : ∃ t, s.callPort q draw answer = .next t := by
  cases hp : s.portScript with
  | nil =>
    rw [State.callPort_draw q draw answer hp]
    exact (modelled_mapError_raise draw).finish _
  | cons a rest =>
    rw [State.callPort_answer q draw answer hp]
    rcases h a (hp ▸ List.mem_cons_self) with rfl | ⟨k, rfl⟩
    · exact hdone.finish _
    · exact (hfail k).finish _

end CallPort

/-- With every form modelled and the port on its contract, each instruction gives a next state. -/
theorem exec_next (i : Instr) {s : State} (h : RunsEveryForm s.cfg) (hport : s.PortOnContract) :
    ∃ t, exec i s = .next t := by
  cases i with
  | add | sub | and | or | xor | slt | sltu | addi | andi | ori | xori | slti | sltiu =>
    exact (aluResult_modelled s _ (modelled_ok _)).finish s
  | sll | srl | sra | slli | srli | srai => exact (aluResult_modelled s _ (h.shiftResult_modelled _ _ _)).finish s
  | lui => exact (aluResult_modelled s _ (h.upperImmediate_modelled _)).finish s
  | auipc => exact (aluResult_modelled s _ ((h.upperImmediate_modelled _).map _)).finish s
  | jal => exact (jumpResult_modelled s _ _).finish s
  | jalr rd rs1 imm =>
    rw [exec_jalr]
    split
    · exact ((h.jalrBase_modelled rd rs1).error ‹_›).finish s
    · exact (jumpResult_modelled s _ _).finish s
  | beq | bne | blt | bge | bltu | bgeu => exact (branchResult_modelled s _ _).finish s
  | lw | lh | lb | lwu | lhu | lbu => exact (loadResult_modelled s _ _ _ _ _).finish s
  | sw | sh | sb => exact (storeResult_modelled s _ _ _ _).finish s
  | qinit | qapply | qentangle | qmeasure =>
    exact State.callPort_next _ _ _ hport (modelled_ok _) fun _ => modelled_raise _

/-! ### How an instruction of a run ends (R142, R144, R148) -/

/-- The `next` of a committed instruction of a run, read off the state it leaves (R144, R147). -/
theorem State.commit_run_next {s : State} (hs : s.served = .run) (r : Result) :
    (∃ z, r.next = .pc z ∧ (s.commit r).pc = u64 z ∧ ((s.commit r).status = s.status ∨ (s.commit r).status = .halted)) ∨
      (r.next = .halt ∧ (s.commit r).status = .halted) := by
  cases hn : r.next with
  | halt => exact .inr ⟨rfl, by simp [State.commit, State.takeNext, hn, hs]⟩
  | pc z =>
    obtain ⟨hpc, hend⟩ := State.commit_goesTo hs hn
    refine .inl ⟨z, rfl, hpc, ?_⟩
    split at hend
    · exact .inr hend.1
    · exact .inl hend.1

theorem State.commit_run_status {s : State} (hs : s.served = .run) (r : Result) :
    (s.commit r).status = s.status ∨ (s.commit r).status = .halted := by
  rcases State.commit_run_next hs r with ⟨_, -, -, hend⟩ | ⟨-, hend⟩
  · exact hend
  · exact .inr hend

/-- An instruction of a run goes on, ends the run, or takes an error after its call of the port. -/
theorem exec_run_cases {i : Instr} {s t : State} (hs : s.served = .run) (h : exec i s = .next t) :
    (t.status = s.status ∨ t.status = .halted) ∨ ∃ u e, PortMove s u ∧ t = u.takeError e := by
  rcases exec_settles i s with ⟨why, hf⟩ | ⟨u, r, hu, hmove, -⟩
  · rw [hf] at h; cases h
  · rw [hu] at h
    cases h
    match r with
    | .error e => exact .inr ⟨u, e, hmove, rfl⟩
    | .ok res =>
      obtain ⟨-, -, -, -, -, -, hstatus, hserved, -⟩ := hmove.same
      exact .inl (hstatus ▸ State.commit_run_status (hserved.trans hs) res)

theorem exec_run_status {i : Instr} {s t : State} (hs : s.served = .run) (hrun : s.status = .running)
    (h : exec i s = .next t) : t.status = .running ∨ t.status = .halted ∨ ∃ err, t.status = .failed err := by
  rcases exec_run_cases hs h with (hgo | hend) | ⟨u, e, hmove, rfl⟩
  · exact .inl (hgo.trans hrun)
  · exact .inr (.inl hend)
  · obtain ⟨-, -, -, -, -, -, -, hserved, -⟩ := hmove.same
    exact .inr (.inr ⟨_, State.takeError_run_status (hserved.trans hs) e⟩)

/-! ### The answers fixed for the port (R301) -/

theorem PortMove.portScript_suffix {s u : State} (h : PortMove s u) : u.portScript <:+ s.portScript := by
  rcases h with rfl | ⟨q, -, rfl⟩ | ⟨q, a, rest, hp, rfl⟩
  · exact List.suffix_refl _
  · exact List.suffix_refl _
  · exact hp ▸ List.suffix_cons a rest

theorem State.settle_port (s : State) (r : Except ErrorKind Result) : SamePort s (s.settle r) := by
  match r with
  | .ok res => exact s.commit_port res
  | .error e => exact s.takeError_port e

/-- An instruction uses up answers and fixes none. -/
theorem State.PortOnContract.exec {i : Instr} {s t : State} (hport : s.PortOnContract) (h : exec i s = .next t) :
    t.PortOnContract := by
  rcases exec_settles i s with ⟨why, hf⟩ | ⟨u, r, hu, hmove, -⟩
  · rw [hf] at h; cases h
  · rw [hu] at h
    cases h
    intro a ha
    rw [(u.settle_port r).1] at ha
    exact hport a (hmove.portScript_suffix.subset ha)

/-! ### A step of a run (R141, R144) -/

theorem runRecord_of_decode {rec : Record} {i : Instr} {s : State} (h : decodeDir s.cfg rec.dir = .ok i) :
    runRecord rec s = exec i s := by
  rw [runRecord, h]

/-- A step of a run is exec of the instruction its record decodes to. -/
theorem step_of_decode {s : State} {rec : Record} {i : Instr} (hrun : s.status = .running)
    (hrec : s.program[s.pc.toNat]? = some rec) (hi : decodeDir s.cfg rec.dir = .ok i) :
    step s = exec i (s.serve .run) := by
  rw [step_of_record hrun hrec, runRecord_of_decode (s := s.serve .run) hi]

/-- Under the invariant a run in progress stands at a record that decodes. -/
theorem State.Inv.step_eq_exec {s : State} (h : s.Inv) (hrun : s.status = .running) :
    ∃ i, step s = exec i (s.serve .run) := by
  obtain ⟨hpc, -⟩ := h.running hrun
  obtain ⟨i, hi⟩ := h.store _ (List.getElem_mem hpc)
  exact ⟨i, step_of_decode hrun (List.getElem?_eq_getElem hpc) hi⟩

end Sys2Proof.Machine

open Sys2Proof Sys2Proof.Machine

/-- Settles O55: every form is modelled, the answers left were fixed before, and every step keeps the invariant. -/
theorem runNeverStopsTheMachine : Obligations.RunNeverStopsTheMachine := by
  intro s hinv hrun hforms hport
  obtain ⟨i, hstep⟩ := hinv.step_eq_exec hrun
  obtain ⟨t, ht⟩ := exec_next i (s := s.serve .run) hforms hport
  obtain ⟨hcfg, -⟩ := exec_sameStore ht
  exact ⟨t, hstep.trans ht, stepKeepsInvariant s t hinv (hstep.trans ht), hcfg ▸ hforms,
    State.PortOnContract.exec (s := s.serve .run) hport ht, exec_run_status (s := s.serve .run) rfl hrun ht⟩

/-- Settles O40: an instruction that does not take an error leaves the status running or halted. -/
theorem errorsWriteNothing : Obligations.ErrorsWriteNothing := by
  intro i s t err hs hrun h hfail
  rcases exec_run_cases hs h with (hgo | hend) | ⟨u, e, hmove, rfl⟩
  · rw [hgo, hrun] at hfail; cases hfail
  · rw [hend] at hfail; cases hfail
  · obtain ⟨-, hregs, hpc, hmem, -, -, -, hserved, -⟩ := hmove.same
    have hus : u.served = .run := hserved.trans hs
    obtain rfl : u.errorRecord e = err := Status.failed.inj ((State.takeError_run_status hus e).symm.trans hfail)
    exact ⟨by simpa using hregs, by simpa using hmem, by simpa using hpc, by simp [State.errorRecord, hus, hpc], rfl,
      State.takeError_run_reply hus e⟩

/-- Settles O43: fetch finds the record, and the mark that a run is served is already there between steps. -/
theorem stepRunsFetchedInstruction : Obligations.StepRunsFetchedInstruction := by
  intro s rec i hrun hrec hi
  have hstep := step_of_decode hrun hrec hi
  refine ⟨hstep, fun hs => ?_⟩
  rw [hstep, State.serve, ← hs]

/-- Settles O44: past the program there is no record to fetch. -/
theorem runEndsPastLastInstruction : Obligations.RunEndsPastLastInstruction := by
  intro s hrun hpc
  rw [step_running hrun, runTurn, List.getElem?_eq_none hpc]
  rfl
end

section
/-! Host operations between runs (40_engine.md R147 to R150): the load of a program, the start of a run, and what a step
is refused for. -/

namespace Sys2Proof

/-! ### The lines of a load (R150) -/

/-- The record a line adds to the program store, if it holds an instruction. -/
def lineRecord (p : Params) (l : List Char) : Option Record :=
  match decodeLine p l with
  | .instr i => some ⟨encode i, l⟩
  | .ignored => none
  | .error _ => none

variable {p : Params} {l : List Char} {lines : List (List Char)}

theorem decodeLines_cons_error {e : DecodeError} (h : decodeLine p l = .error e) (n : Nat) :
    decodeLines p n (l :: lines) = .error ⟨e, n, l⟩ := by
  simp [decodeLines, h]

/-- A line without an error puts its record, if any, in front of what the lines after it give. -/
theorem decodeLines_cons (h : ∀ e, decodeLine p l ≠ .error e) (n : Nat) :
    decodeLines p n (l :: lines) = (decodeLines p (n + 1) lines).map ((lineRecord p l).toList ++ ·) := by
  cases hl : decodeLine p l with
  | error e => exact absurd hl (h e)
  | ignored | instr => cases hls : decodeLines p (n + 1) lines <;> simp [decodeLines, lineRecord, hl, hls, Except.map]

theorem decodeLines_eq_ok (h : ∀ l ∈ lines, ∀ e, decodeLine p l ≠ .error e) (n : Nat) :
    decodeLines p n lines = .ok (lines.filterMap (lineRecord p)) := by
  induction lines generalizing n with
  | nil => rfl
  | cons l ls ih =>
    rw [decodeLines_cons (h l List.mem_cons_self), ih fun l' hl' => h l' (List.mem_cons_of_mem l hl')]
    cases hl : lineRecord p l <;> simp [Except.map, hl]

/-- The first failing line is reported by its number. -/
theorem decodeLines_eq_error {k : Nat} {e : DecodeError} (hl : lines[k]? = some l) (he : decodeLine p l = .error e)
    (hbefore : ∀ l' ∈ lines.take k, ∀ e', decodeLine p l' ≠ .error e') (n : Nat) :
    decodeLines p n lines = .error ⟨e, n + k, l⟩ := by
  induction lines generalizing n k with
  | nil => cases hl
  | cons l' ls ih =>
    cases k with
    | zero =>
      cases hl
      exact decodeLines_cons_error he n
    | succ k =>
      rw [List.take_succ_cons, List.forall_mem_cons] at hbefore
      rw [decodeLines_cons hbefore.1, ih (by simpa using hl) hbefore.2, Nat.add_right_comm]
      rfl

end Sys2Proof

namespace Sys2Proof.Machine

/-! ### What a load and the start of a run leave (R150, R362) -/

/-- With no run in progress the step carries out the oldest host operation that waits. -/
theorem step_of_input {s : State} {op : HostOp} {rest : List HostOp} (hidle : s.status ≠ .running)
    (h : s.inputs = op :: rest) : step s = hostOp op { s with inputs := rest } := by
  rw [step_not_running hidle, idleTurn, h]

theorem hostLoad_ok {s : State} {text : List Char} {rs : List Record} (h : decodeProgram s.cfg text = .ok rs) :
    hostLoad text s = { s with program := rs, progValid := true, reply := some (.loaded rs.length) } := by
  rw [hostLoad, h]

theorem hostLoad_error {s : State} {text : List Char} {e : LoadError} (h : decodeProgram s.cfg text = .error e) :
    hostLoad text s = { s with
      program := [], progValid := true, reply := some (.error ⟨.decode e.kind, none, some e.line, e.text⟩) } := by
  rw [hostLoad, h]

/-- A load changes the program store, its mark and the reply only. -/
theorem hostLoad_frame (text : List Char) (s : State) :
    (hostLoad text s).progValid = true ∧ (hostLoad text s).regs = s.regs ∧ (hostLoad text s).mem = s.mem ∧
      (hostLoad text s).pc = s.pc ∧ (hostLoad text s).status = s.status ∧ (hostLoad text s).inputs = s.inputs ∧
      (hostLoad text s).cfg = s.cfg := by
  cases h : decodeProgram s.cfg text with
  | ok rs => simp [hostLoad_ok h]
  | error e => simp [hostLoad_error h]

theorem startRun_of_nil {s : State} (h : s.program = []) :
    startRun s = ({ s with status := .running, pc := 0 } : State).endRun := by
  simp [startRun, h]

theorem startRun_of_ne_nil {s : State} (h : s.program ≠ []) : startRun s = { s with status := .running, pc := 0 } := by
  simp [startRun, h]

theorem hostOp_run {s : State} (h : s.progValid = true) : hostOp .run s = .next (startRun s) := by
  simp [hostOp, h]

theorem hostOp_run_refused {s : State} (h : s.progValid = false) : hostOp .run s = .refused .noProgram := by
  simp [hostOp, h]

/-! ### Refusals (R114, R149) -/

theorem exec_ne_refused (i : Instr) (s : State) (r : Refusal) : exec i s ≠ .refused r := by
  intro h
  rcases onlyUnmodelledStops i s with ⟨t, ht⟩ | ⟨why, hf⟩
  · rw [h] at ht; cases ht
  · rw [h] at hf; cases hf

theorem doneServing_ne_refused {o : Host.Outcome State Fault Refusal} {r : Refusal} (h : o ≠ .refused r) :
    doneServing o ≠ .refused r := by
  cases o with
  | next | fault => exact fun h' => by cases h'
  | refused => exact h

theorem hostExecute_ne_refused (line : List Char) (s : State) (r : Refusal) : hostExecute line s ≠ .refused r := by
  unfold hostExecute
  split
  · exact fun h => by cases h
  · exact fun h => by cases h
  · exact doneServing_ne_refused (exec_ne_refused _ _ r)

/-- The step interface finds a record that decodes, or none. -/
theorem hostStep_ne_refused {s : State} (h : ∀ rec ∈ s.program, ∃ i, decodeDir s.cfg rec.dir = .ok i) (p : Word)
    (r : Refusal) : hostStep p s ≠ .refused r := by
  refine doneServing_ne_refused ?_
  split
  · exact fun h' => by cases h'
  · next rec hrec =>
    obtain ⟨i, hi⟩ := h rec (List.mem_of_getElem? hrec)
    rw [runRecord_of_decode (s := s.serve (.step p)) hi]
    exact exec_ne_refused i _ r

/-- A host operation on a store of records that decode is refused only as a run without a valid program. -/
theorem hostOp_refused {op : HostOp} {s : State} {r : Refusal}
    (h : ∀ rec ∈ s.program, ∃ i, decodeDir s.cfg rec.dir = .ok i) (hr : hostOp op s = .refused r) :
    op = .run ∧ s.progValid = false ∧ r = .noProgram := by
  cases op with
  | run =>
    cases hvalid : s.progValid with
    | true => rw [hostOp_run hvalid] at hr; cases hr
    | false => rw [hostOp_run_refused hvalid] at hr; cases hr; exact ⟨rfl, rfl, rfl⟩
  | step p => exact absurd hr (hostStep_ne_refused h p r)
  | execute line => exact absurd hr (hostExecute_ne_refused line s r)
  | loadProgram | dumpRegisters | reconstruct => cases hr

end Sys2Proof.Machine

open Sys2Proof Sys2Proof.Machine

/-- Settles O13: the scan of the lines stops at the first error, and else collects every line's record. -/
theorem loadIsAtomic : Obligations.LoadIsAtomic := by
  intro s text rest hidle hinputs
  obtain ⟨hvalid, hregs, hmem, hpc, hstatus, hrest, hcfg⟩ := hostLoad_frame text { s with inputs := rest }
  refine ⟨_, step_of_input hidle hinputs, hvalid, hregs, hmem, hpc, hstatus, hrest, hcfg, fun hok => ?_,
    fun k l e hl he hbefore => ?_⟩
  · rw [hostLoad_ok (s := { s with inputs := rest }) (decodeLines_eq_ok hok 1)]
    exact ⟨rfl, rfl⟩
  · rw [hostLoad_error (s := { s with inputs := rest }) (decodeLines_eq_error hl he hbefore 1), Nat.add_comm 1 k]
    exact ⟨rfl, rfl⟩

/-- Settles O45: a program of length 0 ends the run where it starts. -/
theorem runStartsAtIndexZero : Obligations.RunStartsAtIndexZero := by
  intro s rest hidle hinputs
  rw [step_of_input hidle hinputs]
  refine ⟨fun hvalid => hostOp_run_refused hvalid, fun hvalid => ⟨_, hostOp_run hvalid, ?_⟩⟩
  by_cases hprog : s.program = []
  · rw [startRun_of_nil (s := { s with inputs := rest }) hprog]
    simp [hvalid, hprog, SamePort]
  · rw [startRun_of_ne_nil (s := { s with inputs := rest }) hprog]
    simp [hvalid, hprog, SamePort]

/-- Settles O54: in a run the record at pc decodes, and between runs the waiting operation is the one refused. -/
theorem onlyRunWithoutProgramRefused : Obligations.OnlyRunWithoutProgramRefused := by
  intro s r hinv h
  by_cases hrun : s.status = .running
  · obtain ⟨i, hstep⟩ := hinv.step_eq_exec hrun
    exact absurd (hstep.symm.trans h) (exec_ne_refused i _ r)
  · cases hinputs : s.inputs with
    | nil =>
      rw [step_not_running hrun, idleTurn, hinputs] at h
      cases h
    | cons op rest =>
      rw [step_of_input hrun hinputs] at h
      obtain ⟨rfl, hvalid, hr⟩ := hostOp_refused (s := { s with inputs := rest }) hinv.store h
      exact ⟨hr, hrun, hvalid, rest, rfl⟩
end

section
/-! One instruction, three host operations (40_engine.md R141, R152, R153): what the step interface and an ad-hoc line
make of an instruction, beside what a run makes of it at the same pc. -/

namespace Sys2Proof.Machine

/-! ### Settling outside a run (R152, R153) -/

theorem State.takeError_reply (s : State) (e : ErrorKind) :
    (s.takeError e).reply = some (.error (s.errorRecord e)) := by
  unfold State.takeError
  split <;> rfl

section NotRun

variable {s : State} (hs : s.served ≠ .run)
include hs

theorem State.takeNext_not_run (n : Next) : s.takeNext n = { s with reply := some (.next n) } := by
  unfold State.takeNext
  split
  · exact absurd ‹_› hs
  all_goals rfl

theorem State.commit_not_run_pc (r : Result) : (s.commit r).pc = s.pc := by
  rw [State.commit, State.takeNext_not_run (by simpa using hs)]
  simp

theorem State.commit_not_run_reply (r : Result) : (s.commit r).reply = some (.next r.next) := by
  rw [State.commit, State.takeNext_not_run (by simpa using hs)]

theorem State.settle_not_run_pc (r : Except ErrorKind Result) : (s.settle r).pc = s.pc := by
  match r with
  | .ok res => exact State.commit_not_run_pc hs res
  | .error e => exact s.takeError_pc e

/-- An instruction outside a run leaves the engine's pc. -/
theorem exec_not_run_pc {i : Instr} {t : State} (h : exec i s = .next t) : t.pc = s.pc := by
  rcases exec_settles i s with ⟨why, hf⟩ | ⟨u, r, hu, hmove, -⟩
  · rw [hf] at h; cases h
  · rw [hu] at h
    cases h
    obtain ⟨-, -, hpc, -, -, -, -, hserved, -⟩ := hmove.same
    rw [State.settle_not_run_pc (hserved.trans_ne hs), hpc]

/-- An instruction outside a run changes neither pc, status nor what is stored but registers and memory. -/
theorem exec_not_run_frame {i : Instr} {t : State} (h : exec i s = .next t) :
    t.pc = s.pc ∧ t.status = s.status ∧ t.cfg = s.cfg ∧ t.program = s.program ∧ t.progValid = s.progValid ∧
      t.inputs = s.inputs := by
  obtain ⟨hcfg, hprog, hvalid, hinputs, -⟩ := exec_sameStore h
  exact ⟨exec_not_run_pc hs h, exec_status hs h, hcfg, hprog, hvalid, hinputs⟩

end NotRun

/-! ### The same instruction in a run and outside -/

/-- `b` with a run in progress at `p`. -/
def State.inRun (b : State) (p : Word) : State := { b with served := .run, pc := p, status := .running }

/-- Two outcomes of one instruction, in a run at `p` and serving `v`: from states that agree on all else, each finishes
a computation, and `R` relates the two computations. -/
def Parallel (R : Except Trap Result → Except Trap Result → Prop) (p : Word) (v : Served)
    (o o' : Host.Outcome State Fault Refusal) : Prop :=
  ∃ (b : State) (r r' : Except Trap Result), o = (b.inRun p).finish r ∧ o' = (b.serve v).finish r' ∧ R r r'

section Parallel

variable {R : Except Trap Result → Except Trap Result → Prop} {b : State} {p : Word} {v : Served}

theorem parallel_finish {r r' : Except Trap Result} (h : R r r') :
    Parallel R p v ((b.inRun p).finish r) ((b.serve v).finish r') :=
  ⟨b, r, r', rfl, rfl, h⟩

variable (hv : (b.serve v).instrPc = p)
include hv

theorem seqNext_serve : (b.serve v).seqNext = (b.inRun p).seqNext := by
  rw [State.seqNext, hv]; rfl

theorem plainDraw_serve (q : QReq) : plainDraw (b.serve v) q = plainDraw (b.inRun p) q := by
  simp only [plainDraw, seqNext_serve hv]
  rfl

theorem measureDraw_serve (rd : RegIdx) (q : QReq) : measureDraw (b.serve v) rd q = measureDraw (b.inRun p) rd q := by
  simp only [measureDraw, seqNext_serve hv]
  rfl

theorem plainAnswer_serve : plainAnswer (b.serve v) = plainAnswer (b.inRun p) := by
  funext a
  simp only [plainAnswer, seqNext_serve hv]

theorem measureAnswer_serve (rd : RegIdx) : measureAnswer (b.serve v) rd = measureAnswer (b.inRun p) rd := by
  funext a
  simp only [measureAnswer, seqNext_serve hv]

variable (hR : ∀ r, R r r)
include hR

theorem parallel_aluResult (rd : RegIdx) (w : Except Trap Word) :
    Parallel R p v ((b.inRun p).finish ((b.inRun p).aluResult rd w))
      ((b.serve v).finish ((b.serve v).aluResult rd w)) := by
  refine parallel_finish ?_
  simp only [State.aluResult, State.writeRd, seqNext_serve hv]
  exact hR _

theorem parallel_loadResult (n : Nat) (ext : Nat → Word) (rd rs1 : RegIdx) (imm : Int) :
    Parallel R p v ((b.inRun p).finish ((b.inRun p).loadResult n ext rd rs1 imm))
      ((b.serve v).finish ((b.serve v).loadResult n ext rd rs1 imm)) := by
  refine parallel_finish ?_
  simp only [State.loadResult, State.writeRd, seqNext_serve hv]
  exact hR _

theorem parallel_storeResult (n : Nat) (rs2 rs1 : RegIdx) (imm : Int) :
    Parallel R p v ((b.inRun p).finish ((b.inRun p).storeResult n rs2 rs1 imm))
      ((b.serve v).finish ((b.serve v).storeResult n rs2 rs1 imm)) := by
  refine parallel_finish ?_
  simp only [State.storeResult, seqNext_serve hv]
  exact hR _

omit hv in
theorem parallel_callPort (q : QReq) (draw : Except ErrorKind Result) (answer : PortAnswer → Except Trap Result) :
    Parallel R p v ((b.inRun p).callPort q draw answer) ((b.serve v).callPort q draw answer) := by
  cases hp : b.portScript with
  | nil =>
    exact ⟨{ b.sendRequest q with draws := b.draws + 1 }, draw.mapError .raise, draw.mapError .raise,
      State.callPort_draw (s := b.inRun p) q draw answer hp,
      State.callPort_draw (s := b.serve v) q draw answer hp, hR _⟩
  | cons a rest =>
    exact ⟨{ b.sendRequest q with portScript := rest }, answer a, answer a,
      State.callPort_answer (s := b.inRun p) q draw answer hp,
      State.callPort_answer (s := b.serve v) q draw answer hp, hR _⟩

theorem parallel_callPlain (q : QReq) : Parallel R p v ((b.inRun p).callPlain q) ((b.serve v).callPlain q) := by
  rw [State.callPlain_eq_callPort, State.callPlain_eq_callPort, plainDraw_serve hv, plainAnswer_serve hv]
  exact parallel_callPort hR q _ _

theorem parallel_callMeasure (rd : RegIdx) (q : QReq) :
    Parallel R p v ((b.inRun p).callMeasure rd q) ((b.serve v).callMeasure rd q) := by
  rw [State.callMeasure_eq_callPort, State.callMeasure_eq_callPort, measureDraw_serve hv, measureAnswer_serve hv]
  exact parallel_callPort hR q _ _

/-- An instruction in a run at `p` and serving `v` at the same pc: the two differ at most where a target is checked. -/
theorem exec_parallel (i : Instr) (hjump : ∀ rd z, R ((b.inRun p).jumpResult rd z) ((b.serve v).jumpResult rd z))
    (hbranch : ∀ c imm, R ((b.inRun p).branchResult c imm) ((b.serve v).branchResult c imm)) :
    Parallel R p v (exec i (b.inRun p)) (exec i (b.serve v)) := by
  cases i with
  | add | sub | and | or | xor | slt | sltu | addi | andi | ori | xori | slti | sltiu =>
    exact parallel_aluResult hv hR _ (.ok _)
  | sll | srl | sra | slli | srli | srai | lui => exact parallel_aluResult hv hR _ _
  | auipc rd imm =>
    rw [exec_auipc, exec_auipc, hv]
    exact parallel_aluResult hv hR _ _
  | jal rd imm =>
    rw [exec_jal, exec_jal, hv]
    exact parallel_finish (hjump _ _)
  | jalr rd rs1 imm =>
    have hbase : (b.serve v).jalrBase rd rs1 = (b.inRun p).jalrBase rd rs1 := by
      simp only [State.jalrBase, State.link, hv]
      rfl
    rw [exec_jalr, exec_jalr, hbase]
    cases (b.inRun p).jalrBase rd rs1 with
    | error e => exact parallel_finish (hR _)
    | ok base => exact parallel_finish (hjump _ _)
  | beq | bne | blt | bge | bltu | bgeu => exact parallel_finish (hbranch _ _)
  | lw | lh | lb | lwu | lhu | lbu => exact parallel_loadResult hv hR _ _ _ _ _
  | sw | sh | sb => exact parallel_storeResult hv hR _ _ _ _
  | qinit | qapply | qentangle => exact parallel_callPlain hv hR _
  | qmeasure => exact parallel_callMeasure hv hR _ _

end Parallel

/-! ### The step interface (R153) -/

/-- At the same pc the step interface finishes the computation a run finishes. -/
theorem exec_parallel_step (i : Instr) (b : State) (p : Word) :
    Parallel Eq p (.step p) (exec i (b.inRun p)) (exec i (b.serve (.step p))) :=
  exec_parallel (p := p) rfl (fun _ => rfl) i (fun _ _ => rfl) fun _ _ => rfl

theorem State.finish_fault {s t : State} {r : Except Trap Result} {f : Fault} (h : s.finish r = .fault f)
    (hpc : t.instrPc = s.instrPc) : t.finish r = .fault f := by
  match r, h with
  | .ok res, h => cases h
  | .error (.raise e), h => cases h
  | .error (.unmodelled why), h => rw [State.finish_unmodelled, hpc]; exact h

/-- What a computation that gives a next state is: a result record or an error, which the state settles. -/
theorem State.finish_eq_next {s t : State} {r : Except Trap Result} (h : s.finish r = .next t) :
    (∃ res, r = .ok res ∧ t = s.commit res) ∨ ∃ e, r = .error (.raise e) ∧ t = s.takeError e := by
  match r, h with
  | .ok res, h => cases h; exact .inl ⟨res, rfl, rfl⟩
  | .error (.raise e), h => cases h; exact .inr ⟨e, rfl, rfl⟩
  | .error (.unmodelled why), h => cases h

/-- The same writes on the same registers and memory. -/
theorem State.commit_congr {s t : State} {r r' : Result} (hregs : t.regs = s.regs) (hmem : t.mem = s.mem)
    (hreg : r'.regWrite = r.regWrite) (hmemw : r'.memWrite = r.memWrite) :
    (t.commit r').regs = (s.commit r).regs ∧ (t.commit r').mem = (s.commit r).mem := by
  rw [State.commit_regs, State.commit_regs, State.commit_mem, State.commit_mem, hreg, hmemw]
  exact ⟨State.applyReg_regs_congr hregs _, State.applyMem_mem_congr hmem _⟩

/-- An instruction of the step interface does to registers, memory and port what it does in a run, and gives the host
its `next` or its error without a pc. -/
theorem exec_step_of_run {i : Instr} {b u : State} {p : Word} (hu : exec i (b.inRun p) = .next u) :
    ∃ t, exec i (b.serve (.step p)) = .next t ∧ t.regs = u.regs ∧ t.mem = u.mem ∧ t.requests = u.requests ∧
      ((∃ err, u.status = .failed err ∧ t.reply = some (.error { err with pc := none })) ∨
        (∃ z : Int, t.reply = some (.next (.pc z)) ∧ u.pc = u64 z ∧ (u.status = .running ∨ u.status = .halted)) ∨
        (t.reply = some (.next .halt) ∧ u.status = .halted)) := by
  obtain ⟨b', r, r', hrun, hserve, rfl⟩ := exec_parallel_step i b p
  rcases State.finish_eq_next (hrun.symm.trans hu) with ⟨res, rfl, rfl⟩ | ⟨e, rfl, rfl⟩
  · obtain ⟨hregs, hmem⟩ := State.commit_congr (s := b'.inRun p) (t := b'.serve (.step p)) (r := res) rfl rfl rfl rfl
    obtain ⟨-, hrequests, -⟩ := (b'.serve (.step p)).commit_port res
    obtain ⟨-, hrequests', -⟩ := (b'.inRun p).commit_port res
    have hreply := State.commit_not_run_reply (s := b'.serve (.step p)) Served.noConfusion res
    refine ⟨_, hserve, hregs, hmem, hrequests.trans hrequests'.symm, .inr ?_⟩
    rcases State.commit_run_next (s := b'.inRun p) rfl res with ⟨z, hz, hpc, hend⟩ | ⟨hhalt, hend⟩
    · exact .inl ⟨z, hz ▸ hreply, hpc, hend⟩
    · exact .inr ⟨hhalt ▸ hreply, hend⟩
  · exact ⟨(b'.serve (.step p)).takeError e, hserve, by simp [State.inRun], by simp [State.inRun],
      by simp [State.inRun], .inl ⟨_, State.takeError_run_status rfl e, State.takeError_reply _ e⟩⟩

/-- An instruction of the step interface faults as it does in a run. -/
theorem exec_step_fault_of_run {i : Instr} {b : State} {p : Word} {f : Fault} (hf : exec i (b.inRun p) = .fault f) :
    exec i (b.serve (.step p)) = .fault f := by
  obtain ⟨b', r, r', hrun, hserve, rfl⟩ := exec_parallel_step i b p
  exact hserve.trans (State.finish_fault (hrun.symm.trans hf) rfl)

theorem hostStep_of_none {s : State} {p : Word} (h : s.program.length ≤ p.toNat) :
    hostStep p s = .next (((s.serve (.step p)).takeError (.pcOutOfRange p.toNat)).serve .run) := by
  rw [hostStep, List.getElem?_eq_none h]
  rfl

theorem hostStep_of_record {s : State} {p : Word} {rec : Record} (h : s.program[p.toNat]? = some rec) :
    hostStep p s = doneServing (runRecord rec (s.serve (.step p))) := by
  rw [hostStep, h]

theorem hostStep_of_decode {s : State} {p : Word} {rec : Record} {i : Instr} (h : s.program[p.toNat]? = some rec)
    (hi : decodeDir s.cfg rec.dir = .ok i) : hostStep p s = doneServing (exec i (s.serve (.step p))) := by
  rw [hostStep_of_record h, runRecord_of_decode (s := s.serve (.step p)) hi]

theorem hostStep_of_reserved {s : State} {p : Word} {rec : Record} {c : BitVec 8} (h : s.program[p.toNat]? = some rec)
    (hc : decodeDir s.cfg rec.dir = .error (.reservedOpcode c)) :
    hostStep p s = .next (((s.serve (.step p)).takeError (.decode (.unknownOpcode []))).serve .run) := by
  rw [hostStep_of_record h, runRecord, State.serve_cfg, hc]
  rfl

theorem hostStep_of_illFormed {s : State} {p : Word} {rec : Record} (h : s.program[p.toNat]? = some rec)
    (hill : decodeDir s.cfg rec.dir = .error .illFormed) : hostStep p s = .refused .illFormedDir := by
  rw [hostStep_of_record h, runRecord, State.serve_cfg, hill]
  rfl

end Sys2Proof.Machine

open Sys2Proof Sys2Proof.Machine

/-- Settles O47: after the fetch both finish one computation, and only what follows its end differs. -/
theorem stepInterfaceMatchesRun : Obligations.StepInterfaceMatchesRun := by
  intro s p rest hidle hinputs
  let b : State := { s with inputs := rest }
  have hstep : step s = hostStep p b := step_of_input hidle hinputs
  refine ⟨fun hlen => ?_, fun rec c hrec hdir => ?_, fun rec hrec hdir => ?_, fun rec i f hrec hi hf => ?_,
    fun rec i u hrec hi hu => ?_⟩
  · refine ⟨_, hstep.trans (hostStep_of_none hlen), ?_⟩
    simp [b, State.takeError, State.errorRecord, State.instrText, hlen]
  · refine ⟨_, [], hstep.trans (hostStep_of_reserved (s := b) hrec hdir), ?_⟩
    simp [b, State.takeError, State.errorRecord, State.instrText, hrec]
  · exact hstep.trans (hostStep_of_illFormed (s := b) hrec hdir)
  · rw [hstep, hostStep_of_decode (s := b) hrec hi, exec_step_fault_of_run (b := b) hf, doneServing]
  · obtain ⟨t, ht, hregs, hmem, hrequests, hend⟩ := exec_step_of_run (b := b) hu
    obtain ⟨hpc, hstatus, -, hprog, hvalid, -⟩ := exec_not_run_frame Served.noConfusion ht
    exact ⟨t.serve .run, by rw [hstep, hostStep_of_decode (s := b) hrec hi, ht, doneServing], hregs, hmem, hrequests,
      hpc, hstatus, hprog, hvalid, rfl, hend⟩
end

section
/-! Ad-hoc lines (40_engine.md R152): an instruction at the free pc ADHOC_PC, beside the same instruction in a run, and
its jumps and branches, whose targets no check applies to. -/

namespace Sys2Proof.Machine

/-! ### An instruction without the target check -/

/-- The computation of an instruction where no target is checked, against the one where it is: the same, or the same
writes with another `next`, or any, where the target check fails. -/
inductive UncheckedTarget : Except Trap Result → Except Trap Result → Prop
  | same (r : Except Trap Result) : UncheckedTarget r r
  | sameWrites (res : Result) (n : Next) : UncheckedTarget (.ok res) (.ok { res with next := n })
  | targetFails (z : Int) (r : Except Trap Result) : UncheckedTarget (.error (.raise (.pcOutOfRange z))) r

section Adhoc

variable (b : State) (p : Word) (line : List Char)

theorem checkTarget_adhoc (z : Int) : checkTarget (b.serve (.adhoc p line)) z = .ok (.pc z) := rfl

theorem uncheckedTarget_jumpResult (rd : RegIdx) (z : Int) :
    UncheckedTarget ((b.inRun p).jumpResult rd z) ((b.serve (.adhoc p line)).jumpResult rd z) := by
  rw [State.jumpResult, State.jumpResult, checkTarget_adhoc]
  rcases checkTarget_cases (b.inRun p) z with ⟨hok, -⟩ | hhalt | herr
  · rw [hok]; exact .same _
  · rw [hhalt]; exact .sameWrites _ (.pc z)
  · rw [herr]; exact .targetFails z _

theorem uncheckedTarget_branchResult (c : Bool) (imm : Int) :
    UncheckedTarget ((b.inRun p).branchResult c imm) ((b.serve (.adhoc p line)).branchResult c imm) := by
  cases c with
  | false => exact .same _
  | true =>
    simp only [State.branchResult, checkTarget_adhoc, if_true]
    rcases checkTarget_cases (b.inRun p) (((b.inRun p).instrPc.toNat : Int) + imm) with ⟨hok, -⟩ | hhalt | herr
    · rw [hok]; exact .same _
    · rw [hhalt]; exact .sameWrites _ _
    · rw [herr]; exact .targetFails _ _

theorem exec_parallel_adhoc (i : Instr) :
    Parallel UncheckedTarget p (.adhoc p line) (exec i (b.inRun p)) (exec i (b.serve (.adhoc p line))) :=
  exec_parallel (p := p) rfl .same i (uncheckedTarget_jumpResult b p line) (uncheckedTarget_branchResult b p line)

end Adhoc

/-- Unless a run fails it by the target check, an ad-hoc instruction does to registers, memory and port what it does in
a run, and its error reaches the host without a pc. -/
theorem exec_adhoc_of_run {i : Instr} {b u : State} {p : Word} (line : List Char) (hu : exec i (b.inRun p) = .next u)
    (htarget : ∀ err z, u.status = .failed err → err.kind ≠ .pcOutOfRange z) :
    ∃ t, exec i (b.serve (.adhoc p line)) = .next t ∧ t.regs = u.regs ∧ t.mem = u.mem ∧ t.requests = u.requests ∧
      t.portScript = u.portScript ∧
      ∀ err, u.status = .failed err → t.reply = some (.error ⟨err.kind, none, none, line⟩) := by
  obtain ⟨b', r, r', hrun, hserve, hR⟩ := exec_parallel_adhoc b p line i
  rcases State.finish_eq_next (hrun.symm.trans hu) with ⟨res, rfl, rfl⟩ | ⟨e, rfl, rfl⟩
  · have hwrites : ∃ n, r' = .ok { res with next := n } := by
      cases hR with
      | same => exact ⟨res.next, rfl⟩
      | sameWrites _ n => exact ⟨n, rfl⟩
    obtain ⟨n, rfl⟩ := hwrites
    obtain ⟨hregs, hmem⟩ := State.commit_congr (s := b'.inRun p) (t := b'.serve (.adhoc p line)) (r := res)
      (r' := { res with next := n }) rfl rfl rfl rfl
    obtain ⟨hscript, hrequests, -⟩ := (b'.serve (.adhoc p line)).commit_port { res with next := n }
    obtain ⟨hscript', hrequests', -⟩ := (b'.inRun p).commit_port res
    refine ⟨_, hserve, hregs, hmem, hrequests.trans hrequests'.symm, hscript.trans hscript'.symm, fun err herr => ?_⟩
    rcases State.commit_run_status (s := b'.inRun p) rfl res with hend | hend <;> rw [hend] at herr <;> cases herr
  · have hfail : ((b'.inRun p).takeError e).status = .failed ((b'.inRun p).errorRecord e) :=
      State.takeError_run_status rfl e
    cases hR with
    | targetFails z => exact absurd rfl (htarget _ z hfail)
    | same =>
      refine ⟨(b'.serve (.adhoc p line)).takeError e, hserve, by simp [State.inRun], by simp [State.inRun],
        by simp [State.inRun], by simp [State.inRun], fun err herr => ?_⟩
      rw [hfail] at herr
      cases herr
      exact State.takeError_reply _ e

/-! ### Ad-hoc lines (R152) -/

theorem hostExecute_error {line : List Char} {s : State} {e : DecodeError} (h : decodeLine s.cfg line = .error e) :
    hostExecute line s = .next { s with reply := some (.error ⟨.decode e, none, none, line⟩) } := by
  rw [hostExecute, h]

/-- `s` once it has taken the ad-hoc line from the waiting operations and drawn ADHOC_PC, about to execute. -/
def State.inAdhoc (s : State) (line : List Char) (rest : List HostOp) : State :=
  { s with inputs := rest, served := .adhoc (Config.adhocPc s.draws) line, draws := s.draws + 1 }

/-- `x[rs1] + imm` as the target of a `jalr`: the sum of the patterns is the pattern of the sum (R241). -/
theorem add_u64 (x : Word) (z : Int) : x + u64 z = u64 (x.toNat + z) := by
  rw [u64, u64, BitVec.ofInt_add, BitVec.ofInt_natCast, BitVec.ofNat_toNat, BitVec.setWidth_eq]

/-- Where rs1 is read from before the link write (R241). -/
theorem State.jalrBase_readReg {s : State} {rd rs1 : RegIdx}
    (h : rd ≠ rs1 ∨ rd = 0 ∨ s.cfg.jalrLinkOrder = .oldRs1) : s.jalrBase rd rs1 = .ok (s.readReg rs1) := by
  unfold State.jalrBase
  split
  · next hboth =>
    rcases h with hne | h0 | hold
    · exact absurd hboth.1 hne
    · exact absurd h0 hboth.2
    · rw [hold]
  · rfl

/-- Where rs1 is read from after the link write (R241). -/
theorem State.jalrBase_link {s : State} {rd : RegIdx} (h0 : rd ≠ 0) (hnew : s.cfg.jalrLinkOrder = .newRs1) :
    s.jalrBase rd rd = .ok s.link := by
  rw [State.jalrBase, if_pos ⟨rfl, h0⟩, hnew]

theorem exec_jalr_of_base {s : State} {rd rs1 : RegIdx} {base : Word} (h : s.jalrBase rd rs1 = .ok base) (imm : Int) :
    exec (.jalr rd rs1 imm) s = s.finish (s.jumpResult rd ((base + u64 imm).toNat : Int)) := by
  rw [exec_jalr, h]

theorem isEqual_iff {x y : Word} : isEqual x y = true ↔ x = y := by
  simp [isEqual]

theorem not_isEqual_iff {x y : Word} : (!isEqual x y) = true ↔ x ≠ y := by
  simp [isEqual]

theorem lessSigned_iff {x y : Word} : lessSigned x y = true ↔ s64 x < s64 y :=
  decide_eq_true_iff

theorem not_lessSigned_iff {x y : Word} : (!lessSigned x y) = true ↔ s64 y ≤ s64 x := by
  simp [lessSigned]

theorem lessUnsigned_iff {x y : Word} : lessUnsigned x y = true ↔ x.toNat < y.toNat :=
  decide_eq_true_iff

theorem not_lessUnsigned_iff {x y : Word} : (!lessUnsigned x y) = true ↔ y.toNat ≤ x.toNat := by
  simp [lessUnsigned]

section AdhocLine

variable {s : State} {line : List Char} {rest : List HostOp} {i : Instr} (hidle : s.status ≠ .running)
  (hinputs : s.inputs = .execute line :: rest) (hi : decodeLine s.cfg line = .instr i)
include hidle hinputs hi

theorem step_of_adhoc : step s = doneServing (exec i (s.inAdhoc line rest)) := by
  rw [step_of_input hidle hinputs, hostOp, hostExecute]
  simp only [hi]
  rfl

theorem step_of_adhoc_commit {res : Result}
    (h : exec i (s.inAdhoc line rest) = .next ((s.inAdhoc line rest).commit res)) :
    step s = .next (((s.inAdhoc line rest).commit res).serve .run) ∧
      ((s.inAdhoc line rest).commit res).reply = some (.next res.next) :=
  ⟨by rw [step_of_adhoc hidle hinputs hi, h, doneServing], State.commit_not_run_reply Served.noConfusion res⟩

/-- An ad-hoc jump commits its link and hands the target to the host, unchecked. -/
theorem adhocJumpsTo_of_exec {rd : RegIdx} {n : Int} (hrd : rd.toNat < s.regs.length)
    (h : exec i (s.inAdhoc line rest) = (s.inAdhoc line rest).finish ((s.inAdhoc line rest).jumpResult rd n)) :
    AdhocJumpsTo s rd n := by
  obtain ⟨hstep, hreply⟩ := step_of_adhoc_commit hidle hinputs hi
    (res := { next := .pc n, regWrite := some (rd, u64 ((Config.adhocPc s.draws).toNat + 1)) }) h
  exact ⟨_, hstep, State.commit_writesReg (s := s.inAdhoc line rest) hrd rfl,
    State.commit_sameMem (s := s.inAdhoc line rest) rfl, hreply⟩

/-- An ad-hoc branch writes nothing and hands its next pc to the host, unchecked. -/
theorem adhocBranchesOn_of_exec {c : Bool} {imm : Int} {cond : Prop} (hc : c = true ↔ cond)
    (h : exec i (s.inAdhoc line rest) = (s.inAdhoc line rest).finish ((s.inAdhoc line rest).branchResult c imm)) :
    AdhocBranchesOn s cond imm := by
  obtain ⟨hstep, hreply⟩ := step_of_adhoc_commit hidle hinputs hi
    (res := { next := .pc ((Config.adhocPc s.draws).toNat + if c then imm else 1) }) (by rw [h]; cases c <;> rfl)
  refine ⟨_, hstep, State.commit_sameRegs (s := s.inAdhoc line rest) rfl,
    State.commit_sameMem (s := s.inAdhoc line rest) rfl, fun htaken => ?_, fun hnot => ?_⟩
  · rw [State.serve_reply, hreply]
    simp [hc.2 htaken]
  · rw [State.serve_reply, hreply]
    simp [mt hc.1 hnot]

end AdhocLine

end Sys2Proof.Machine

open Sys2Proof Sys2Proof.Machine

/-- Settles O49: the ad-hoc instruction and the run finish computations that differ at most by the target check. -/
theorem adhocMatchesRun : Obligations.AdhocMatchesRun := by
  intro s line rest i u hidle hinputs hi hu htarget
  obtain ⟨t, ht, hend⟩ :=
    exec_adhoc_of_run (b := { s with inputs := rest, draws := s.draws + 1 }) line hu htarget
  have hexec : exec i (s.inAdhoc line rest) = .next t := ht
  exact ⟨t.serve .run, by rw [step_of_adhoc hidle hinputs hi, hexec, doneServing], hend⟩

/-- Settles O48: an ad-hoc instruction settles outside a run, where every target passes. -/
theorem adhocInstruction : Obligations.AdhocInstruction := by
  intro s line rest hidle hinputs
  refine ⟨fun e he => (step_of_input hidle hinputs).trans (hostExecute_error (s := { s with inputs := rest }) he),
    fun i t hi ht => ?_, fun rd imm hi hrd => adhocJumpsTo_of_exec hidle hinputs hi hrd (exec_jal rd imm _),
    fun rd rs1 imm hi hrd => ⟨fun hold => ?_, fun hsame h0 hnew => ?_⟩, fun rs1 rs2 imm => ?_⟩
  · rw [step_of_adhoc hidle hinputs hi] at ht
    obtain ⟨u, hu, rfl⟩ := doneServing_next ht
    obtain ⟨hpc, hstatus, hcfg, hprog, hvalid, hrest⟩ := exec_not_run_frame Served.noConfusion hu
    exact ⟨hpc, hprog, hvalid, hstatus, hcfg, hrest, rfl⟩
  · have hbase := State.jalrBase_readReg (s := s.inAdhoc line rest) hold
    have hexec := exec_jalr_of_base hbase imm
    rw [add_u64] at hexec
    exact adhocJumpsTo_of_exec hidle hinputs hi hrd hexec
  · subst hsame
    have hbase := State.jalrBase_link (s := s.inAdhoc line rest) h0 hnew
    have hexec := exec_jalr_of_base hbase imm
    rw [State.link, ← BitVec.ofInt_add] at hexec
    exact adhocJumpsTo_of_exec hidle hinputs hi hrd hexec
  · exact ⟨fun hi => adhocBranchesOn_of_exec hidle hinputs hi isEqual_iff (exec_beq rs1 rs2 imm _),
      fun hi => adhocBranchesOn_of_exec hidle hinputs hi not_isEqual_iff (exec_bne rs1 rs2 imm _),
      fun hi => adhocBranchesOn_of_exec hidle hinputs hi lessSigned_iff (exec_blt rs1 rs2 imm _),
      fun hi => adhocBranchesOn_of_exec hidle hinputs hi not_lessSigned_iff (exec_bge rs1 rs2 imm _),
      fun hi => adhocBranchesOn_of_exec hidle hinputs hi lessUnsigned_iff (exec_bltu rs1 rs2 imm _),
      fun hi => adhocBranchesOn_of_exec hidle hinputs hi not_lessUnsigned_iff (exec_bgeu rs1 rs2 imm _)⟩
end

section
/-! The R-type instructions in a run (41_rtype.md R170 to R180): a computed value goes to rd, and a shift is by its
amount, or as SHIFT_OVERSIZE says. -/

namespace Sys2Proof.Machine

/-! ### The opcode id (R110, R112) -/

theorem opcodeOf_instrFields (i : Instr) : OpcodeOf i (instrFields i).opc :=
  unpackDir_packDir_opc (instrFields i)

/-! ### Words as patterns of integers (R10) -/

theorem u64_toNat (x : Word) : u64 x.toNat = x := by
  rw [u64, BitVec.ofInt_natCast, BitVec.ofNat_toNat, BitVec.setWidth_eq]

theorem add_eq_u64 (x y : Word) : x + y = u64 (x.toNat + y.toNat) := by
  rw [← add_u64, u64_toNat]

theorem sub_eq_u64 (x y : Word) : x - y = u64 (x.toNat - y.toNat) := by
  rw [BitVec.sub_eq_add_neg, Int.sub_eq_add_neg, ← add_u64, u64, BitVec.ofInt_neg, ← u64, u64_toNat]

theorem setIf_lessSigned (x y : Word) : setIf (lessSigned x y) = if s64 x < s64 y then 1 else 0 := by
  simp only [setIf, lessSigned_iff]

theorem setIf_lessUnsigned (x y : Word) : setIf (lessUnsigned x y) = if x.toNat < y.toNat then 1 else 0 := by
  simp only [setIf, lessUnsigned_iff]

/-! ### The three shifts as arithmetic (R176 to R178) -/

theorem shiftBy_left (x : Word) : shiftBy .left x = fun n => u64 (x.toNat * 2 ^ n) := by
  funext n
  apply BitVec.eq_of_toNat_eq
  have hcast : (x.toNat : Int) * 2 ^ n = ((x.toNat * 2 ^ n : Nat) : Int) := by push_cast; rfl
  rw [hcast, u64, BitVec.ofInt_natCast, BitVec.toNat_ofNat, shiftBy, BitVec.toNat_shiftLeft, Nat.shiftLeft_eq]

theorem shiftBy_rightLogical (x : Word) : shiftBy .rightLogical x = fun n => u64 (x.toNat / 2 ^ n) := by
  funext n
  have hcast : (x.toNat : Int) / 2 ^ n = ((x >>> n).toNat : Int) := by
    rw [BitVec.toNat_ushiftRight, Nat.shiftRight_eq_div_pow]; push_cast; rfl
  rw [hcast, u64_toNat, shiftBy]

theorem shiftBy_rightArithmetic (x : Word) : shiftBy .rightArithmetic x = fun n => u64 (s64 x / 2 ^ n) := by
  funext n
  rw [shiftBy, BitVec.sshiftRight_eq, Int.shiftRight_eq_div_pow]
  push_cast
  rfl

/-! ### A shift by `ShAmt(amount)` (R170) -/

section ShiftAmount

variable {p : Params} {k : ShiftKind} {x : Word} {amount : Int}

theorem shiftResult_inside (h : 0 ≤ amount ∧ amount ≤ 63) :
    shiftResult p k x amount = .ok (shiftBy k x amount.toNat) := by
  rw [shiftResult, if_pos h]

section Outside

variable (h : amount < 0 ∨ 63 < amount)
include h

theorem shiftResult_refuse (hset : p.shiftOversize = .refuse) :
    shiftResult p k x amount = .error (.unmodelled .shiftAmount) := by
  rw [shiftResult, if_neg (by omega), hset]

theorem shiftResult_mask6 (hset : p.shiftOversize = .mask6) :
    shiftResult p k x amount = .ok (shiftBy k x (amount % 64).toNat) := by
  rw [shiftResult, if_neg (by omega), hset]

theorem shiftResult_goSaturate (hset : p.shiftOversize = .goSaturate) :
    shiftResult p k x amount = if amount < 0 then .error (.unmodelled .negativeShift) else .ok (shiftOut k x) := by
  rw [shiftResult, if_neg (by omega), hset]

theorem shiftResult_anyValue (hset : p.shiftOversize = .anyValue) :
    shiftResult p k x amount = .ok (Config.oversizeShift k x amount) := by
  rw [shiftResult, if_neg (by omega), hset]

end Outside

end ShiftAmount

/-! ### An instruction of a run whose record is an ALU result (R142, R143, R329) -/

section AluInstr

variable {i : Instr} {s : State} {rd : RegIdx} {r : Except Trap Word} (hs : s.served = .run)
  (hexec : exec i s = s.finish (s.aluResult rd r))
include hs hexec

theorem completesWith_of_aluResult {v : Word} (hrd : rd.toNat < s.regs.length) (hr : r = .ok v) :
    CompletesWith i s rd v :=
  completesWith_of_writeRd hs hrd (by rw [hexec, hr, State.aluResult])

theorem exec_fault_of_aluResult {why : Reason} (hr : r = .error (.unmodelled why)) :
    exec i s = .fault (.unmodelled why s.pc) := by
  rw [hexec, hr, State.aluResult, State.finish_unmodelled, State.instrPc_run hs]

end AluInstr

section ShiftInstr

variable {i : Instr} {s : State} {rd : RegIdx} {k : ShiftKind} {x : Word} {amount : Int} (hs : s.served = .run)
  (hrd : rd.toNat < s.regs.length) (hexec : exec i s = s.finish (s.aluResult rd (shiftResult s.cfg k x amount)))
include hs hrd hexec

/-- A shift instruction of a run, for amounts in [0, 63] and under each of the spec's settings outside. -/
theorem shiftsBy_of_exec : ShiftsBy i s rd amount (shiftBy k x) (shiftOut k x) := by
  refine ⟨fun hin => completesWith_of_aluResult hs hexec hrd (shiftResult_inside hin),
    fun hout => ⟨fun hrefuse => exec_fault_of_aluResult hs hexec (shiftResult_refuse hout hrefuse),
      fun hmask => completesWith_of_aluResult hs hexec hrd (shiftResult_mask6 hout hmask),
      fun hsat => ⟨fun hneg => ?_, fun hnonneg => ?_⟩⟩⟩
  · exact exec_fault_of_aluResult hs hexec (by rw [shiftResult_goSaturate hout hsat, if_pos hneg])
  · exact completesWith_of_aluResult hs hexec hrd (by rw [shiftResult_goSaturate hout hsat, if_neg (by omega)])

theorem completesWith_oversizeShift (hset : s.cfg.shiftOversize = .anyValue) (hout : amount < 0 ∨ 63 < amount) :
    CompletesWith i s rd (Config.oversizeShift k x amount) :=
  completesWith_of_aluResult hs hexec hrd (shiftResult_anyValue hout hset)

end ShiftInstr

end Sys2Proof.Machine

open Sys2Proof Sys2Proof.Machine

/-- Settles O19: each is a shift by `ShAmt(x[rs2])`, whose value is the arithmetic one for every amount. -/
theorem registerShifts : Obligations.RegisterShifts := by
  intro s rd rs1 rs2 hs hrd
  rw [← shiftBy_left, ← shiftBy_rightLogical, ← shiftBy_rightArithmetic]
  exact ⟨shiftsBy_of_exec hs hrd (exec_sll rd rs1 rs2 s), shiftsBy_of_exec hs hrd (exec_srl rd rs1 rs2 s),
    shiftsBy_of_exec hs hrd (exec_sra rd rs1 rs2 s), opcodeOf_instrFields _, opcodeOf_instrFields _,
    opcodeOf_instrFields _⟩

/-- Settles O24: outside [0, 63] the setting gives every shift the free value, of a register amount or an immediate. -/
theorem oversizeShiftIsFree : Obligations.OversizeShiftIsFree := by
  intro s rd rs1 rs2 imm hs hrd hset
  refine ⟨fun hbig => ?_, fun hout => ?_⟩
  · have hout : ((s.readReg rs2).toNat : Int) < 0 ∨ 63 < ((s.readReg rs2).toNat : Int) := by omega
    exact ⟨completesWith_oversizeShift hs hrd (exec_sll rd rs1 rs2 s) hset hout,
      completesWith_oversizeShift hs hrd (exec_srl rd rs1 rs2 s) hset hout,
      completesWith_oversizeShift hs hrd (exec_sra rd rs1 rs2 s) hset hout⟩
  · exact ⟨completesWith_oversizeShift hs hrd (exec_slli rd rs1 imm s) hset hout,
      completesWith_oversizeShift hs hrd (exec_srli rd rs1 imm s) hset hout,
      completesWith_oversizeShift hs hrd (exec_srai rd rs1 imm s) hset hout⟩

/-- Settles O18: each writes the word its operation gives; sum and difference of words are those of their integers. -/
theorem addSubAndOrXor : Obligations.AddSubAndOrXor := by
  intro s rd rs1 rs2 hs hrd
  rw [← add_eq_u64, ← sub_eq_u64]
  exact ⟨completesWith_of_aluResult hs (exec_add rd rs1 rs2 s) hrd rfl,
    completesWith_of_aluResult hs (exec_sub rd rs1 rs2 s) hrd rfl,
    completesWith_of_aluResult hs (exec_and rd rs1 rs2 s) hrd rfl,
    completesWith_of_aluResult hs (exec_or rd rs1 rs2 s) hrd rfl,
    completesWith_of_aluResult hs (exec_xor rd rs1 rs2 s) hrd rfl, opcodeOf_instrFields _, opcodeOf_instrFields _,
    opcodeOf_instrFields _, opcodeOf_instrFields _, opcodeOf_instrFields _⟩

/-- Settles O20: each writes `setIf` of its comparison. -/
theorem setIfLess : Obligations.SetIfLess := by
  intro s rd rs1 rs2 hs hrd
  rw [← setIf_lessSigned, ← setIf_lessUnsigned]
  exact ⟨completesWith_of_aluResult hs (exec_slt rd rs1 rs2 s) hrd rfl,
    completesWith_of_aluResult hs (exec_sltu rd rs1 rs2 s) hrd rfl, opcodeOf_instrFields _, opcodeOf_instrFields _⟩
end

section
/-! The I-type instructions in a run (42_itype.md R200 to R210): the immediate enters as its 64-bit pattern, and only
slti and the shifts speak of the integer itself. -/

namespace Sys2Proof.Machine

theorem s64_u64 {imm : Int} (hlow : -(2 ^ 63) ≤ imm) (hhigh : imm ≤ 2 ^ 63 - 1) : s64 (u64 imm) = imm :=
  BitVec.toInt_ofInt_eq_self (by decide) hlow (Int.lt_of_le_sub_one hhigh)

end Sys2Proof.Machine

open Sys2Proof Sys2Proof.Machine

/-- Settles O21: each writes the word its operation gives; the sum with a pattern is the pattern of the sum. -/
theorem addAndOrXorImmediate : Obligations.AddAndOrXorImmediate := by
  intro s rd rs1 imm hs hrd
  rw [← add_u64]
  exact ⟨completesWith_of_aluResult hs (exec_addi rd rs1 imm s) hrd rfl,
    completesWith_of_aluResult hs (exec_andi rd rs1 imm s) hrd rfl,
    completesWith_of_aluResult hs (exec_ori rd rs1 imm s) hrd rfl,
    completesWith_of_aluResult hs (exec_xori rd rs1 imm s) hrd rfl, opcodeOf_instrFields _, opcodeOf_instrFields _,
    opcodeOf_instrFields _, opcodeOf_instrFields _⟩

/-- Settles O22: each writes `setIf` of a comparison with the pattern, which slti reads back as the immediate. -/
theorem setIfLessImmediate : Obligations.SetIfLessImmediate := by
  intro s rd rs1 imm hs hrd hlow hhigh
  have hslti : setIf (lessSigned (s.readReg rs1) (u64 imm)) = if s64 (s.readReg rs1) < imm then 1 else 0 := by
    rw [setIf_lessSigned, s64_u64 hlow hhigh]
  rw [← hslti, ← setIf_lessUnsigned]
  exact ⟨completesWith_of_aluResult hs (exec_slti rd rs1 imm s) hrd rfl,
    completesWith_of_aluResult hs (exec_sltiu rd rs1 imm s) hrd rfl, opcodeOf_instrFields _, opcodeOf_instrFields _⟩

/-- Settles O23: each is a shift by `ShAmt(imm)`, whose value is the arithmetic one for every amount. -/
theorem immediateShifts : Obligations.ImmediateShifts := by
  intro s rd rs1 imm hs hrd
  rw [← shiftBy_left, ← shiftBy_rightLogical, ← shiftBy_rightArithmetic]
  exact ⟨shiftsBy_of_exec hs hrd (exec_slli rd rs1 imm s), shiftsBy_of_exec hs hrd (exec_srli rd rs1 imm s),
    shiftsBy_of_exec hs hrd (exec_srai rd rs1 imm s), opcodeOf_instrFields _, opcodeOf_instrFields _,
    opcodeOf_instrFields _⟩
end

section
/-! The U-type instructions in a run (43_utype.md R230 to R232): lui writes the upper immediate `UImm(imm)`, auipc its sum
with the instruction's own index. -/

namespace Sys2Proof.Machine

/-! ### `UImm(imm)` (R230) -/

section UImm

variable {p : Params} {imm : Int}

theorem upperImmediate_shifted (h : (-(2 ^ 19) ≤ imm ∧ imm ≤ 2 ^ 19 - 1) ∨ p.uImmMode = .wide64) :
    upperImmediate p imm = .ok (u64 (imm * 2 ^ 12)) := by
  by_cases hin : -(2 ^ 19) ≤ imm ∧ imm ≤ 2 ^ 19 - 1
  · rw [upperImmediate, if_pos hin]
  · rw [upperImmediate, if_neg hin, h.resolve_left hin]

section Outside

variable (h : imm < -(2 ^ 19) ∨ 2 ^ 19 - 1 < imm)
include h

theorem upperImmediate_refuse (hset : p.uImmMode = .refuseOutside20Bit) :
    upperImmediate p imm = .error (.unmodelled .uImmRange) := by
  rw [upperImmediate, if_neg (by omega), hset]

theorem upperImmediate_anyValue (hset : p.uImmMode = .anyValue) :
    upperImmediate p imm = .ok (Config.upperImm imm ++ (0 : BitVec 12)) := by
  rw [upperImmediate, if_neg (by omega), hset]

end Outside

end UImm

/-! ### lui and auipc (R231, R232) -/

section UTypeInstr

variable {s : State} (rd : RegIdx) {imm : Int} (hs : s.served = .run)
include hs

theorem completesWith_upperImmediate {u : Word} (hrd : rd.toNat < s.regs.length)
    (hu : upperImmediate s.cfg imm = .ok u) :
    CompletesWith (.lui rd imm) s rd u ∧ CompletesWith (.auipc rd imm) s rd (s.pc + u) := by
  refine ⟨completesWith_of_aluResult hs (exec_lui rd imm s) hrd hu,
    completesWith_of_aluResult hs (exec_auipc rd imm s) hrd ?_⟩
  rw [hu, Except.map, State.instrPc_run hs]

theorem exec_fault_upperImmediate {why : Reason} (hu : upperImmediate s.cfg imm = .error (.unmodelled why)) :
    exec (.lui rd imm) s = .fault (.unmodelled why s.pc) ∧ exec (.auipc rd imm) s = .fault (.unmodelled why s.pc) := by
  refine ⟨exec_fault_of_aluResult hs (exec_lui rd imm s) hu, exec_fault_of_aluResult hs (exec_auipc rd imm s) ?_⟩
  rw [hu, Except.map]

end UTypeInstr

end Sys2Proof.Machine

open Sys2Proof Sys2Proof.Machine

/-- Settles O25: both are decided by `UImm(imm)`; the index plus a pattern is the pattern of the sum. -/
theorem upperImmediate : Obligations.UpperImmediate := by
  intro s rd imm hs hrd
  rw [← add_u64]
  exact ⟨fun hshift => completesWith_upperImmediate rd hs hrd (upperImmediate_shifted hshift),
    fun hout hrefuse => exec_fault_upperImmediate rd hs (upperImmediate_refuse hout hrefuse),
    opcodeOf_instrFields _, opcodeOf_instrFields _⟩

/-- Settles O26: the upper immediate is the free 52 bits with 12 zero bits appended. -/
theorem freeUpperImmediate : Obligations.FreeUpperImmediate := by
  intro s rd imm hs hrd hout hany
  exact ⟨Config.upperImm imm ++ (0 : BitVec 12), BitVec.setWidth_append_eq_right, BitVec.extractLsb'_append_eq_left,
    completesWith_upperImmediate rd hs hrd (upperImmediate_anyValue hout hany)⟩
end

section
/-! Jumps and branches in a run (44_control.md R240 to R248): the target check of R146 lets a jump or a taken branch go to
its target, raises, or ends the run by a Halt. -/

namespace Sys2Proof.Machine

/-! ### The target check (R146) -/

section Outside

variable {s : State} {n : Int} (hs : s.served = .run) (hout : n < 0 ∨ (s.len : Int) < n)
include hs hout

theorem checkTarget_fault (hset : s.cfg.jumpPastEnd = .fault) :
    checkTarget s n = .error (.raise (.pcOutOfRange n)) := by
  rw [checkTarget_outside hs (by omega), hset]

theorem checkTarget_halt (hset : s.cfg.jumpPastEnd = .halt) : checkTarget s n = .ok .halt := by
  rw [checkTarget_outside hs (by omega), hset]

end Outside

/-- A record without a memory write that takes Halt ends the run with pc as it was; its register write is committed. -/
theorem State.commit_haltedHere {s : State} (hs : s.served = .run) {r : Result} (hm : r.memWrite = none)
    (hn : r.next = .halt) : HaltedHere s (s.commit r) := by
  have hend : s.commit r = (s.applyReg r.regWrite).endRun := by
    rw [State.commit, hm, hn, State.applyMem, State.takeNext, State.applyReg_served, hs]
  refine ⟨State.commit_sameMem hm, State.commit_store s r, State.commit_port s r, ?_, ?_, ?_⟩ <;> simp [hend]

/-! ### An instruction of a run whose record is a jump (R240, R241) -/

section JumpInstr

variable {i : Instr} {s : State} {rd : RegIdx} {n : Int} (hs : s.served = .run) (hrd : rd.toNat < s.regs.length)
  (hexec : exec i s = s.finish (s.jumpResult rd n))
include hs hrd hexec

theorem jumpsTo_of_checkTarget (hcheck : checkTarget s n = .ok (.pc n)) : JumpsTo i s rd n := by
  rw [State.jumpResult, hcheck] at hexec
  exact ⟨_, hexec, State.commit_writesReg hrd (by rw [State.link_run hs]), State.commit_sameMem rfl,
    State.commit_store _ _, State.commit_port _ _, State.commit_goesTo hs rfl⟩

theorem jumpOrRaise_of_exec : JumpOrRaise i s rd n := by
  refine ⟨fun ⟨hlow, hhigh⟩ => jumpsTo_of_checkTarget hs hrd hexec (checkTarget_ok hlow hhigh),
    fun hout => ⟨fun hfault => ?_, fun hhalt => ?_⟩⟩
  · rw [State.jumpResult, checkTarget_fault hs hout hfault] at hexec
    exact raises_of_error hs hexec
  · rw [State.jumpResult, checkTarget_halt hs hout hhalt] at hexec
    exact ⟨_, hexec, State.commit_writesReg hrd (by rw [State.link_run hs]), State.commit_haltedHere hs rfl rfl⟩

end JumpInstr

/-! ### jalr (R241) -/

section Jalr

variable {s : State} {rd rs1 : RegIdx} {imm : Int} (hs : s.served = .run) (hrd : rd.toNat < s.regs.length)
include hs hrd

theorem jumpOrRaise_jalr_readReg (hbase : s.jalrBase rd rs1 = .ok (s.readReg rs1)) :
    JumpOrRaise (.jalr rd rs1 imm) s rd (u64 ((s.readReg rs1).toNat + imm)).toNat := by
  rw [← add_u64]
  exact jumpOrRaise_of_exec hs hrd (exec_jalr_of_base hbase imm)

theorem jumpOrRaise_jalr_link (hbase : s.jalrBase rd rs1 = .ok s.link) :
    JumpOrRaise (.jalr rd rs1 imm) s rd (u64 (s.pc.toNat + 1 + imm)).toNat := by
  rw [u64, BitVec.ofInt_add, ← u64, ← State.link_run hs]
  exact jumpOrRaise_of_exec hs hrd (exec_jalr_of_base hbase imm)

end Jalr

section JalrBase

variable {s : State} {rd : RegIdx} (h0 : rd ≠ 0)
include h0

theorem State.jalrBase_refuse (hset : s.cfg.jalrLinkOrder = .refuse) :
    s.jalrBase rd rd = .error (.unmodelled .jalrLinkOrder) := by
  rw [State.jalrBase, if_pos ⟨rfl, h0⟩, hset]

/-- Under `either` the free value decides between the two readings (logs 2, 3). -/
theorem State.jalrBase_either (hset : s.cfg.jalrLinkOrder = .either) :
    s.jalrBase rd rd = .ok (if Config.jalrReadsNewRs1 then s.link else s.readReg rd) := by
  rw [State.jalrBase, if_pos ⟨rfl, h0⟩, hset]

end JalrBase

/-! ### An instruction of a run whose record is `Branch(cond)` (R242) -/

theorem branchesOn_of_exec {i : Instr} {s : State} {c : Bool} {cond : Prop} {imm : Int} (hs : s.served = .run)
    (hc : c = true ↔ cond) (hexec : exec i s = s.finish (s.branchResult c imm)) : BranchesOn i s cond imm := by
  rw [State.branchResult, State.instrPc_run hs, State.seqNext_run hs] at hexec
  refine ⟨fun hnot => ?_, fun htaken ⟨hlow, hhigh⟩ => ?_, fun htaken hout => ⟨fun hfault => ?_, fun hhalt => ?_⟩⟩
  · rw [if_neg (mt hc.1 hnot)] at hexec
    exact onlyGoesTo_of_next hs hexec
  · rw [if_pos (hc.2 htaken), checkTarget_ok hlow hhigh] at hexec
    exact onlyGoesTo_of_next hs hexec
  · rw [if_pos (hc.2 htaken), checkTarget_fault hs hout hfault] at hexec
    exact raises_of_error hs hexec
  · rw [if_pos (hc.2 htaken), checkTarget_halt hs hout hhalt] at hexec
    exact ⟨_, hexec, State.commit_sameRegs rfl, State.commit_haltedHere hs rfl rfl⟩

end Sys2Proof.Machine

open Sys2Proof Sys2Proof.Machine

/-- Settles O27: a jump to `pc + imm`, decided by the target check. -/
theorem jumpAndLink : Obligations.JumpAndLink := by
  intro s rd imm hs hrd
  have hexec := exec_jal rd imm s
  rw [State.instrPc_run hs] at hexec
  exact ⟨jumpOrRaise_of_exec hs hrd hexec, opcodeOf_instrFields _⟩

/-- Settles O28: the base is rs1 as read before the link write, or the link itself, or the instruction is refused. -/
theorem jumpAndLinkRegister : Obligations.JumpAndLinkRegister := by
  intro s rd rs1 imm hs hrd
  refine ⟨fun hold => jumpOrRaise_jalr_readReg hs hrd (State.jalrBase_readReg hold), fun hsame h0 => ?_,
    opcodeOf_instrFields _⟩
  subst hsame
  refine ⟨fun hnew => jumpOrRaise_jalr_link hs hrd (State.jalrBase_link h0 hnew), fun hrefuse => ?_⟩
  rw [exec_jalr, State.jalrBase_refuse h0 hrefuse, ← State.instrPc_run hs]
  exact State.finish_unmodelled s .jalrLinkOrder

/-- Settles O29: the two values of the free choice give the two readings. -/
theorem jalrEitherReading : Obligations.JalrEitherReading := by
  intro s rd imm hs hrd h0 heither
  have hbase := State.jalrBase_either h0 heither
  by_cases hnew : Config.jalrReadsNewRs1 = true
  · rw [if_pos hnew] at hbase
    exact .inr (jumpOrRaise_jalr_link hs hrd hbase)
  · rw [if_neg hnew] at hbase
    exact .inl (jumpOrRaise_jalr_readReg hs hrd hbase)

/-- Settles O30: each is a `Branch` on its comparison, which holds exactly where its condition does. -/
theorem branches : Obligations.Branches := by
  intro s rs1 rs2 imm hs
  exact ⟨branchesOn_of_exec hs isEqual_iff (exec_beq rs1 rs2 imm s),
    branchesOn_of_exec hs not_isEqual_iff (exec_bne rs1 rs2 imm s),
    branchesOn_of_exec hs lessSigned_iff (exec_blt rs1 rs2 imm s),
    branchesOn_of_exec hs not_lessSigned_iff (exec_bge rs1 rs2 imm s),
    branchesOn_of_exec hs lessUnsigned_iff (exec_bltu rs1 rs2 imm s),
    branchesOn_of_exec hs not_lessUnsigned_iff (exec_bgeu rs1 rs2 imm s), opcodeOf_instrFields _,
    opcodeOf_instrFields _, opcodeOf_instrFields _, opcodeOf_instrFields _, opcodeOf_instrFields _,
    opcodeOf_instrFields _⟩
end

section
/-! Loads and stores in a run (45_load_store.md R270 to R280): the bounds check of R63 gives the address of the bytes to
read or write, or raises. -/

namespace Sys2Proof.Machine

/-! ### The bytes of a load as one word (R65, R10) -/

/-- A read with its lowest byte split off is a concatenation. -/
theorem Memory.readLE_succ_eq_append {m : Memory} {a n w : Nat} {x : BitVec w} (hx : m.readLE (a + 1) n = x.toNat) :
    m.readLE a (n + 1) = (x ++ m.read a).toNat := by
  rw [Memory.readLE_succ, hx, BitVec.toNat_append, ← Nat.shiftLeft_add_eq_or_of_lt (m.read a).isLt, Nat.shiftLeft_eq,
    Nat.add_comm, Nat.mul_comm]

section Bytes

variable (m : Memory) (a : Nat)

theorem Memory.readLE_one : m.readLE a 1 = (m.read a).toNat := by
  rw [Memory.readLE_succ, Memory.readLE_zero, Nat.mul_zero, Nat.add_zero]

theorem Memory.readLE_two : m.readLE a 2 = (m.read (a + 1) ++ m.read a).toNat :=
  Memory.readLE_succ_eq_append (m.readLE_one (a + 1))

theorem Memory.readLE_four :
    m.readLE a 4 = (m.read (a + 3) ++ m.read (a + 2) ++ m.read (a + 1) ++ m.read a).toNat :=
  Memory.readLE_succ_eq_append (Memory.readLE_succ_eq_append (m.readLE_two (a + 2)))

end Bytes

theorem sext_toNat {n : Nat} (x : BitVec n) : sext n x.toNat = x.signExtend 64 := by
  rw [sext, BitVec.ofNat_toNat, BitVec.setWidth_eq]

theorem zext_toNat {n : Nat} (x : BitVec n) : zext n x.toNat = x.setWidth 64 := by
  rw [zext, BitVec.ofNat_toNat, BitVec.setWidth_eq]

/-! ### An instruction of a run whose record is a load or a store (R271) -/

section LoadStoreInstr

variable {i : Instr} {s : State} {rs1 : RegIdx} {imm : Int} {n : Nat} (hs : s.served = .run)
include hs

theorem loadsOrRaises_of_exec {rd : RegIdx} {ext value : Nat → Word} (hrd : rd.toNat < s.regs.length)
    (hvalue : ∀ a, ext (s.mem.readLE a n) = value a) (hexec : exec i s = s.finish (s.loadResult n ext rd rs1 imm)) :
    LoadsOrRaises i s rd rs1 imm n value := by
  rw [State.loadResult, State.effectiveAddress] at hexec
  refine ⟨fun ⟨hlow, hhigh⟩ => ?_, fun hout => ?_⟩
  · rw [checkBounds_ok hlow hhigh] at hexec
    rw [← hvalue]
    exact completesWith_of_writeRd hs hrd hexec
  · rw [checkBounds_error hout] at hexec
    exact raises_of_error hs hexec

theorem storesOrRaises_of_exec {rs2 : RegIdx} (hwf : s.mem.wf = true)
    (hexec : exec i s = s.finish (s.storeResult n rs2 rs1 imm)) : StoresOrRaises i s rs2 rs1 imm n := by
  rw [State.storeResult, State.effectiveAddress] at hexec
  refine ⟨fun ⟨hlow, hhigh⟩ => ?_, fun hout => ?_⟩
  · rw [checkBounds_ok hlow hhigh] at hexec
    exact ⟨_, hexec, State.commit_sameRegs rfl, State.commit_writesBytes hwf rfl, State.commit_store _ _,
      State.commit_port _ _, State.commit_goesTo hs (State.seqNext_run hs)⟩
  · rw [checkBounds_error hout] at hexec
    exact raises_of_error hs hexec

end LoadStoreInstr

end Sys2Proof.Machine

open Sys2Proof Sys2Proof.Machine

/-- Settles O32: each extends a read whose bytes concatenate to the word it names, at the address the bounds check gives. -/
theorem loads : Obligations.Loads := by
  intro s rd rs1 imm hs hrd
  exact ⟨loadsOrRaises_of_exec hs hrd (fun a => by rw [Memory.readLE_four, sext_toNat]) (exec_lw rd rs1 imm s),
    loadsOrRaises_of_exec hs hrd (fun a => by rw [Memory.readLE_two, sext_toNat]) (exec_lh rd rs1 imm s),
    loadsOrRaises_of_exec hs hrd (fun a => by rw [Memory.readLE_one, sext_toNat]) (exec_lb rd rs1 imm s),
    loadsOrRaises_of_exec hs hrd (fun a => by rw [Memory.readLE_four, zext_toNat]) (exec_lwu rd rs1 imm s),
    loadsOrRaises_of_exec hs hrd (fun a => by rw [Memory.readLE_two, zext_toNat]) (exec_lhu rd rs1 imm s),
    loadsOrRaises_of_exec hs hrd (fun a => by rw [Memory.readLE_one, zext_toNat]) (exec_lbu rd rs1 imm s),
    opcodeOf_instrFields _, opcodeOf_instrFields _, opcodeOf_instrFields _, opcodeOf_instrFields _,
    opcodeOf_instrFields _, opcodeOf_instrFields _⟩

/-- Settles O33: each commits one range of bytes, at the address the bounds check gives, or raises before any write. -/
theorem stores : Obligations.Stores := by
  intro s rs2 rs1 imm hs hwf
  exact ⟨storesOrRaises_of_exec hs hwf (exec_sw rs2 rs1 imm s), storesOrRaises_of_exec hs hwf (exec_sh rs2 rs1 imm s),
    storesOrRaises_of_exec hs hwf (exec_sb rs2 rs1 imm s), opcodeOf_instrFields _, opcodeOf_instrFields _,
    opcodeOf_instrFields _⟩
end

section
/-! The quantum instructions in a run (46_quantum_dispatch.md R300 to R305): the request goes to the port first, and the
answer, scripted or drawn, is settled on the state that leaves. That state differs from the one before in the port's own
fields only, so what is settled there reads the same against the state before. -/

namespace Sys2Proof.Machine

/-! ### Settling after a call of the port (R142, R148, R300) -/

theorem sameRegs_of_regs_eq {s t : State} (h : t.regs = s.regs) : SameRegs s t :=
  ⟨congrArg List.length h, State.readReg_congr h⟩

theorem writesReg_of_regs_eq {s t : State} {rd : RegIdx} {v : Word} (hrd : rd.toNat < s.regs.length)
    (h : t.regs = (s.writeReg rd v).regs) : WritesReg s t rd v := by
  obtain ⟨hlen, hread, hothers⟩ := State.writesReg_writeReg hrd v
  exact ⟨h ▸ hlen, (State.readReg_congr h rd).trans hread,
    fun r hr => (State.readReg_congr h r).trans (hothers r hr)⟩

/-- `t` is `s` after a sequential record of a run whose only write is `w`, up to the port's own fields (R142, R143). -/
def Advances (s t : State) (w : Option (RegIdx × Word)) : Prop :=
  t.regs = (s.applyReg w).regs ∧ SameMem s t ∧ SameStore s t ∧ GoesTo s t (s.pc.toNat + 1)

/-- `s` with the port's own fields set. -/
def State.withPort (s : State) (script : List PortAnswer) (requests : List QReq) (draws : Nat) : State :=
  { s with portScript := script, requests := requests, draws := draws }

theorem PortMove.eq_withPort {s u : State} (h : PortMove s u) :
    ∃ script requests draws, u = s.withPort script requests draws := by
  rcases h with rfl | ⟨q, -, rfl⟩ | ⟨q, a, rest, -, rfl⟩ <;> exact ⟨_, _, _, rfl⟩

section PortMove

variable {s u : State} (h : PortMove s u) (hs : s.served = .run)
include h hs

theorem PortMove.commit_advances (w : Option (RegIdx × Word)) :
    Advances s (u.commit { next := s.seqNext, regWrite := w }) w := by
  obtain ⟨-, hregs, -⟩ := h.same
  obtain ⟨script, requests, draws, rfl⟩ := h.eq_withPort
  exact ⟨(State.commit_regs _ _).trans (State.applyReg_regs_congr hregs w), State.commit_sameMem rfl, State.commit_store _ _,
    State.commit_goesTo (s := s.withPort script requests draws) hs (State.seqNext_run hs)⟩

theorem PortMove.takeError_failedBy (e : ErrorKind) : FailedBy s (u.takeError e) e := by
  obtain ⟨script, requests, draws, rfl⟩ := h.eq_withPort
  exact State.takeError_failedBy (s := s.withPort script requests draws) hs e

end PortMove

/-! ### A scripted answer (R301) -/

section Answer

variable {i : Instr} {s : State} {q : QReq} {draw : Except ErrorKind Result} {answer : PortAnswer → Except Trap Result}
  {a : PortAnswer} {rest : List PortAnswer}

/-- The answer is finished after a call that used it up. -/
theorem State.callPort_used (q : QReq) (draw : Except ErrorKind Result) (answer : PortAnswer → Except Trap Result)
    (hport : s.portScript = a :: rest) :
    ∃ u, PortMove s u ∧ s.callPort q draw answer = u.finish (answer a) ∧
      ∀ t, SamePort u t → SentWithScript s t q rest :=
  ⟨_, .inr (.inr ⟨q, a, rest, hport, rfl⟩), State.callPort_answer q draw answer hport,
    fun _ ⟨hscript, hrequests, hdraws⟩ => ⟨hrequests, hscript, hdraws⟩⟩

variable (hs : s.served = .run) (hexec : exec i s = s.callPort q draw answer)
include hs hexec

theorem advances_of_answer {w : Option (RegIdx × Word)} (hport : s.portScript = a :: rest)
    (ha : answer a = .ok { next := s.seqNext, regWrite := w }) :
    ∃ t, exec i s = .next t ∧ Advances s t w ∧ SentWithScript s t q rest := by
  obtain ⟨u, hmove, hcall, hsent⟩ := State.callPort_used q draw answer hport
  rw [hexec, hcall, ha]
  exact ⟨_, rfl, hmove.commit_advances hs w, hsent _ (u.commit_port _)⟩

theorem onlySends_of_answer (hport : s.portScript = a :: rest) (ha : answer a = .ok { next := s.seqNext }) :
    ∃ t, exec i s = .next t ∧ SameRegs s t ∧ SameMem s t ∧ SameStore s t ∧ SentWithScript s t q rest ∧
      GoesTo s t (s.pc.toNat + 1) := by
  obtain ⟨t, ht, ⟨hregs, hmem, hstore, hgo⟩, hsent⟩ := advances_of_answer hs hexec hport ha
  exact ⟨t, ht, sameRegs_of_regs_eq hregs, hmem, hstore, hsent, hgo⟩

theorem failsFromPort_of_answer {e : ErrorKind} (hport : s.portScript = a :: rest)
    (ha : answer a = .error (.raise e)) : FailsFromPort i q s rest e := by
  obtain ⟨u, hmove, hcall, hsent⟩ := State.callPort_used q draw answer hport
  rw [FailsFromPort, hexec, hcall, ha]
  exact ⟨_, rfl, hmove.takeError_failedBy hs e, hsent _ (u.takeError_port e)⟩

theorem passesOnFailures_of_answer (hfail : ∀ k, answer (.fail k) = .error (.raise (portError k))) :
    PassesOnFailures i q s rest :=
  ⟨fun _ hport => failsFromPort_of_answer hs hexec hport (hfail _),
    fun hport => failsFromPort_of_answer hs hexec hport (hfail _),
    fun hport => failsFromPort_of_answer hs hexec hport (hfail _)⟩

theorem exec_fault_of_answer {why : Reason} (hport : s.portScript = a :: rest)
    (ha : answer a = .error (.unmodelled why)) : exec i s = .fault (.unmodelled why s.pc) := by
  rw [hexec, State.callPort_answer q draw answer hport, ha, State.finish_unmodelled, ← State.instrPc_run hs]
  rfl

end Answer

/-- `qinit`, `qapply` and `qentangle`: the four answers to a plain call (R302, R303, R305). -/
theorem callsPort_of_callPlain {i : Instr} {s : State} {q : QReq} (hs : s.served = .run)
    (hexec : exec i s = s.callPlain q) : CallsPort i q s := by
  rw [State.callPlain_eq_callPort] at hexec
  exact fun rest => ⟨fun hdone => onlySends_of_answer hs hexec hdone rfl,
    passesOnFailures_of_answer hs hexec fun _ => rfl,
    fun _ hbit => exec_fault_of_answer hs hexec hbit rfl,
    fun _ hother => exec_fault_of_answer hs hexec hother rfl⟩

/-! ### A free answer (QPORT) -/

theorem plainDraw_cases (s : State) (q : QReq) :
    plainDraw s q = .ok { next := s.seqNext } ∨ ∃ k, plainDraw s q = .error (portError k) := by
  unfold plainDraw
  cases Config.portFailure s.draws q with
  | none => exact .inl rfl
  | some k => exact .inr ⟨k, rfl⟩

theorem measureDraw_cases (s : State) (rd : RegIdx) (q : QReq) :
    measureDraw s rd q = .ok { next := s.seqNext } ∨
      (∃ b : Bool, measureDraw s rd q = .ok { next := s.seqNext, regWrite := some (rd, if b then 1 else 0) }) ∨
      ∃ k, measureDraw s rd q = .error (portError k) := by
  unfold measureDraw
  cases Config.portFailure s.draws q with
  | some k => exact .inr (.inr ⟨k, rfl⟩)
  | none =>
    cases Config.measuredBit s.draws q with
    | none => exact .inl rfl
    | some b => exact .inr (.inl ⟨b, rfl⟩)

theorem FailedBy.byPort {s t : State} {k : PortFail} (h : FailedBy s t (portError k)) : FailedByPort s t := by
  cases k with
  | uninitializedQuantumRegister r => exact .inl ⟨r, h⟩
  | unsupportedControlCount => exact .inr (.inl h)
  | quantumPortFailure => exact .inr (.inr h)

section Draw

variable {i : Instr} {s : State} {q : QReq} {draw : Except ErrorKind Result} {answer : PortAnswer → Except Trap Result}
  (hs : s.served = .run) (hport : s.portScript = []) (hexec : exec i s = s.callPort q draw answer)

/-- The draw is settled after a call that drew one free value. -/
theorem State.callPort_drawn (q : QReq) (draw : Except ErrorKind Result) (answer : PortAnswer → Except Trap Result)
    (hport : s.portScript = []) :
    ∃ u, PortMove s u ∧ s.callPort q draw answer = .next (u.settle draw) ∧ SentWithDraw s (u.settle draw) q := by
  refine ⟨{ s.sendRequest q with draws := s.draws + 1 }, .inr (.inl ⟨q, hport, rfl⟩), ?_, ?_⟩
  · rw [State.callPort, hport]
  · obtain ⟨hscript, hrequests, hdraws⟩ := State.settle_port { s.sendRequest q with draws := s.draws + 1 } draw
    exact ⟨hrequests, hscript, hdraws⟩

include hs hport hexec

theorem advances_of_draw {w : Option (RegIdx × Word)} (hdraw : draw = .ok { next := s.seqNext, regWrite := w }) :
    ∃ t, exec i s = .next t ∧ SentWithDraw s t q ∧ Advances s t w := by
  obtain ⟨u, hmove, hcall, hsent⟩ := State.callPort_drawn q draw answer hport
  subst hdraw
  exact ⟨_, hexec.trans hcall, hsent, hmove.commit_advances hs w⟩

theorem fails_of_draw {k : PortFail} (hdraw : draw = .error (portError k)) :
    ∃ t, exec i s = .next t ∧ SentWithDraw s t q ∧ SameRegs s t ∧ SameMem s t ∧ SameStore s t ∧ FailedByPort s t := by
  obtain ⟨u, hmove, hcall, hsent⟩ := State.callPort_drawn q draw answer hport
  subst hdraw
  have hfail := hmove.takeError_failedBy hs (portError k)
  have ⟨hregs, hmem, hstore, _⟩ := hfail
  exact ⟨_, hexec.trans hcall, hsent, hregs, hmem, hstore, hfail.byPort⟩

end Draw

/-- `qinit`, `qapply` and `qentangle` with no answer fixed: the draw completes, or fails by an error of the port. -/
theorem drawsFromPort_of_callPlain {i : Instr} {s : State} {q : QReq} (hs : s.served = .run) (hport : s.portScript = [])
    (hexec : exec i s = s.callPlain q) : DrawsFromPort i q s := by
  rw [State.callPlain_eq_callPort] at hexec
  rcases plainDraw_cases s q with hok | ⟨k, hk⟩
  · obtain ⟨t, ht, hsent, hregs, hmem, hstore, hgo⟩ := advances_of_draw hs hport hexec hok
    exact ⟨t, ht, hsent, hmem, hstore, .inl ⟨sameRegs_of_regs_eq hregs, hgo⟩⟩
  · obtain ⟨t, ht, hsent, -, hmem, hstore, hfail⟩ := fails_of_draw hs hport hexec hk
    exact ⟨t, ht, hsent, hmem, hstore, .inr hfail⟩

/-! ### The same computation on other registers (R300) -/

/-- `s` with the register file `other`. -/
def State.withRegs (s : State) (other : List Word) : State := { s with regs := other }

/-- What a write makes of a register file depends on nothing else of the state. -/
theorem State.withRegs_applyReg_regs (u s : State) (other : List Word) (w : Option (RegIdx × Word)) :
    ((u.withRegs other).applyReg w).regs = ((s.withRegs other).applyReg w).regs :=
  State.applyReg_regs_congr (s := s.withRegs other) (u := u.withRegs other) rfl w

section WithRegs

variable (s : State) (other : List Word)

theorem State.withRegs_takeNext (n : Next) : (s.withRegs other).takeNext n = (s.takeNext n).withRegs other := by
  have hserved : (s.withRegs other).served = s.served := rfl
  unfold State.takeNext
  rw [hserved]
  cases s.served with
  | step | adhoc => rfl
  | run =>
    cases n with
    | halt => rfl
    | pc z =>
      have hlen : (s.withRegs other).len = s.len := rfl
      dsimp only
      rw [hlen]
      split <;> rfl

theorem State.withRegs_takeError (e : ErrorKind) : (s.withRegs other).takeError e = (s.takeError e).withRegs other := by
  have hserved : (s.withRegs other).served = s.served := rfl
  have hrecord : (s.withRegs other).errorRecord e = s.errorRecord e := rfl
  unfold State.takeError
  rw [hserved, hrecord]
  cases s.served <;> rfl

theorem State.withRegs_applyMem (m : Option (Nat × Nat × Word)) :
    (s.withRegs other).applyMem m = (s.applyMem m).withRegs other := by
  cases m <;> rfl

theorem State.withRegs_applyReg (w : Option (RegIdx × Word)) :
    (s.withRegs other).applyReg w = (s.applyReg w).withRegs ((s.withRegs other).applyReg w).regs := by
  rcases w with _ | ⟨rd, v⟩
  · rfl
  · simp only [State.applyReg_some, State.writeReg]
    split <;> rfl

/-- A commit on other registers makes the same register write there, and is the same in all else. -/
theorem State.withRegs_commit (r : Result) :
    (s.withRegs other).commit r = (s.commit r).withRegs ((s.withRegs other).applyReg r.regWrite).regs := by
  rw [State.commit, State.withRegs_applyMem, State.withRegs_applyReg, State.withRegs_takeNext,
    State.withRegs_applyReg_regs _ s, ← State.commit]

end WithRegs

/-- A computation finished on other registers differs in the registers only, by the same write. -/
theorem State.withRegs_finish {s t : State} {r : Except Trap Result} (h : s.finish r = .next t) (other : List Word) :
    ∃ w, t.regs = (s.applyReg w).regs ∧
      (s.withRegs other).finish r = .next (t.withRegs ((s.withRegs other).applyReg w).regs) := by
  rcases State.finish_eq_next h with ⟨res, rfl, rfl⟩ | ⟨e, rfl, rfl⟩
  · exact ⟨res.regWrite, s.commit_regs res, by rw [State.finish_ok, State.withRegs_commit]⟩
  · exact ⟨none, s.takeError_regs e, by rw [State.finish_raise, State.withRegs_takeError]; rfl⟩

/-- A call of the port finishes one computation, whatever the registers. -/
theorem State.withRegs_callPort (s : State) (other : List Word) (q : QReq) (draw : Except ErrorKind Result)
    (answer : PortAnswer → Except Trap Result) :
    ∃ (u : State) (r : Except Trap Result), u.regs = s.regs ∧ s.callPort q draw answer = u.finish r ∧
      (s.withRegs other).callPort q draw answer = (u.withRegs other).finish r := by
  match hp : s.portScript with
  | [] =>
    exact ⟨{ s.sendRequest q with draws := s.draws + 1 }, draw.mapError .raise, rfl, State.callPort_draw q draw answer hp,
      State.callPort_draw (s := s.withRegs other) q draw answer hp⟩
  | a :: rest =>
    exact ⟨{ s.sendRequest q with portScript := rest }, answer a, rfl, State.callPort_answer q draw answer hp,
      State.callPort_answer (s := s.withRegs other) q draw answer hp⟩

end Sys2Proof.Machine

open Sys2Proof Sys2Proof.Machine

/-- Settles O34: each is a plain call of the port, and the scripted answer decides it. -/
theorem quantumInitApplyEntangle : Obligations.QuantumInitApplyEntangle := by
  intro s rd rs1 rs2 imm hs
  exact ⟨callsPort_of_callPlain hs (exec_qinit rd s), callsPort_of_callPlain hs (exec_qapply rd rs1 imm s),
    callsPort_of_callPlain hs (exec_qentangle rd rs1 rs2 s), opcodeOf_instrFields _, opcodeOf_instrFields _,
    opcodeOf_instrFields _⟩

/-- Settles O35: a call of the port that, beside the answers of a plain one, takes `Bit(b)` and writes its bit to rd. -/
theorem quantumMeasure : Obligations.QuantumMeasure := by
  intro s rd rs1 rest hs hrd
  have hexec := (exec_qmeasure rd rs1 s).trans (s.callMeasure_eq_callPort rd _)
  refine ⟨fun b hbit => ?_, fun hdone => onlySends_of_answer hs hexec hdone rfl,
    passesOnFailures_of_answer hs hexec fun _ => rfl,
    fun _ hother => exec_fault_of_answer hs hexec hother rfl, opcodeOf_instrFields _⟩
  obtain ⟨t, ht, ⟨hregs, hmem, hstore, hgo⟩, hsent⟩ := advances_of_answer hs hexec hbit rfl
  exact ⟨t, ht, writesReg_of_regs_eq hrd hregs, hmem, hstore, hsent, hgo⟩

/-- Settles O36: whatever is drawn, each settles a sequential record or an error of the port, and a record of qmeasure
writes nothing or a bit to rd. -/
theorem quantumAnswersAreFree : Obligations.QuantumAnswersAreFree := by
  intro s rd rs1 rs2 imm hs hrd hport
  refine ⟨drawsFromPort_of_callPlain hs hport (exec_qinit rd s),
    drawsFromPort_of_callPlain hs hport (exec_qapply rd rs1 imm s),
    drawsFromPort_of_callPlain hs hport (exec_qentangle rd rs1 rs2 s), ?_⟩
  have hexec := (exec_qmeasure rd rs1 s).trans (s.callMeasure_eq_callPort rd _)
  rcases measureDraw_cases s rd ⟨.qmeasure, rd, rs1, 0, 0⟩ with hdone | ⟨b, hbit⟩ | ⟨k, hk⟩
  · obtain ⟨t, ht, hsent, hregs, hmem, hstore, hgo⟩ := advances_of_draw hs hport hexec hdone
    exact ⟨t, ht, hsent, hmem, hstore, fun r _ => State.readReg_congr hregs r,
      .inl (State.readReg_congr hregs rd), .inl hgo⟩
  · obtain ⟨t, ht, hsent, hregs, hmem, hstore, hgo⟩ := advances_of_draw hs hport hexec hbit
    obtain ⟨-, hread, hothers⟩ := writesReg_of_regs_eq hrd hregs
    have hvalue : t.readReg rd = 0 ∨ t.readReg rd = 1 := by
      rw [hread]
      split
      · exact .inl rfl
      · cases b
        · exact .inl rfl
        · exact .inr rfl
    exact ⟨t, ht, hsent, hmem, hstore, hothers, .inr hvalue, .inl hgo⟩
  · obtain ⟨t, ht, hsent, ⟨-, hregs⟩, hmem, hstore, hfail⟩ := fails_of_draw hs hport hexec hk
    exact ⟨t, ht, hsent, hmem, hstore, fun r _ => hregs r, .inl (hregs rd), .inr hfail⟩

/-- Settles O37: request and port fix the computation, and only its commit touches the registers, by one write. -/
theorem quantumReadsNoRegister : Obligations.QuantumReadsNoRegister := by
  intro i s other hi
  have hcall : ∃ (u : State) (r : Except Trap Result), u.regs = s.regs ∧ exec i s = u.finish r ∧
      exec i (s.withRegs other) = (u.withRegs other).finish r := by
    rcases hi with ⟨rd, rfl⟩ | ⟨rd, rs1, imm, rfl⟩ | ⟨rd, rs1, rfl⟩ | ⟨rd, rs1, rs2, rfl⟩
    all_goals exact s.withRegs_callPort other _ _ _
  obtain ⟨u, r, hregs, hexec, hother⟩ := hcall
  refine ⟨fun t ht => ?_, fun f hf => hother.trans (State.finish_fault (hexec.symm.trans hf) rfl)⟩
  obtain ⟨w, ht', hfinish⟩ := State.withRegs_finish (hexec.symm.trans ht) other
  exact ⟨_, hother.trans hfinish, rfl, rfl, rfl, rfl, rfl, rfl, w,
    ht'.trans (State.applyReg_regs_congr hregs w), u.withRegs_applyReg_regs s other w⟩
end

section
/-! Exceptions and reset. No instruction stops where every form is modelled (60_exceptions.md R329), which is `exec_next`;
and what the registers and the bytes of a reconstructed machine read (70_reset_and_hazards.md R360): of the bytes that
INIT_MEM lists for one address, the last. -/

namespace Sys2Proof.Machine

/-! ### The bytes of a construction (R62) -/

theorem Memory.ofCells_append_singleton (cap : Nat) (cells : List Host.Cell) (c : Host.Cell) :
    Memory.ofCells cap (cells ++ [c]) =
      if c.1 < cap then (Memory.ofCells cap cells).write c.1 c.2 else Memory.ofCells cap cells := by
  rw [Memory.ofCells, List.foldl_append]
  rfl

/-- A later cell is written over an earlier one of the same address. -/
theorem Memory.read_ofCells {cap a : Nat} (ha : a < cap) (cells : List Host.Cell) :
    (Memory.ofCells cap cells).read a = ((cells.reverse.find? fun c => c.1 == a).map Prod.snd).getD unlistedByte := by
  induction cells using List.reverseRecOn with
  | nil => rfl
  | append_singleton cells c ih =>
    rw [Memory.ofCells_append_singleton, List.reverse_concat]
    by_cases hc : c.1 = a
    · rw [if_pos (hc ▸ ha), Memory.read_write (Memory.wf_ofCells cap cells), if_pos hc.symm,
        List.find?_cons_of_pos (by simpa using hc)]
      rfl
    · rw [List.find?_cons_of_neg (by simpa using hc), ← ih]
      split
      · rw [Memory.read_write (Memory.wf_ofCells cap cells), if_neg (Ne.symm hc)]
      · rfl

/-! ### The registers of a construction (R36) -/

theorem State.construct_readReg {p : Params} {r : RegIdx} (hr : r ≠ 0) (hlt : r.toNat < p.nreg) :
    (State.construct p).readReg r = p.initRegs.getD r.toNat 0 := by
  have hne : r.toNat ≠ 0 := fun h0 => hr (BitVec.eq_of_toNat_eq h0)
  refine State.readReg_of_getElem? hr ?_
  simp [State.construct, initialRegs, hlt, hne]

end Sys2Proof.Machine

open Sys2Proof Sys2Proof.Machine

/-- Settles O42: the form of each instruction decides which computation it finishes, and each of these is modelled. -/
theorem everyInstructionRuns : Obligations.EveryInstructionRuns :=
  fun i _ hforms hport => exec_next i hforms hport

/-- Settles O46: registers, memory and program store are those of a construction with the same parameters. -/
theorem reconstructBuildsFreshMachine : Obligations.ReconstructBuildsFreshMachine := by
  intro s rest hidle hinputs
  refine ⟨reconstruct { s with inputs := rest }, step_of_input hidle hinputs, initialRegs_length s.cfg,
    State.readReg_zero _, fun r hr hlt => ?_, fun a ha => Memory.read_ofCells ha s.cfg.initMem, rfl, rfl, rfl, rfl, rfl⟩
  exact (State.readReg_congr rfl r).trans (State.construct_readReg hr hlt)
end
